-- ==== Sys2Proof/Word.lean ====
section
/-!
DEFINITION. The word and byte of the machine (00_scope R7, R8; 20_memory R70).
-/

namespace Sys2Proof

/-- A register value, an address or an instruction: 32 bits, bit 0 the least significant (00_scope R7). -/
abbrev Word := BitVec 32

/-- The smallest addressable unit of memory (20_memory R70). -/
abbrev Byte := BitVec 8

/-- A register field of an instruction, 0 to 15 (00_scope R11). -/
abbrev Reg := BitVec 4

/-- A word address is a multiple of 4 (20_memory R73). -/
def Word.aligned (a : Word) : Bool := a.extractLsb' 0 2 == 0#2

/-- Whether the register number is one of R8 to R14, the registers that some mode banks (10_state R21). -/
def Reg.banked (r : Reg) : Bool := 8 ≤ r.toNat && r.toNat ≤ 14

end Sys2Proof
end

