-- ==== Sys2Proof/Config.lean ====
section
/-!
DEFINITION. What an implementation fixes (the configuration record of 00_scope R6, as plain data) and the free
values: constants without a body, so that nothing proved can rest on what they are (00_scope R10, `DRAW`).
-/

namespace Sys2Proof

/-- The member of the family (00_scope R2, R6). -/
inductive Variant where
  | arm2
  | arm2as
  | arm3
  | arm6
  | arm7dm
deriving DecidableEq, Repr

/-- SWP and SWPB exist (00_scope R6 `Cfg.has_swp`). -/
def Variant.hasSwp : Variant → Bool
  | .arm2 => false
  | .arm2as | .arm3 | .arm6 | .arm7dm => true

/-- The 32-bit PC modes, CPSR, SPSRs, modes Abt and Und, MRS and MSR exist (00_scope R6 `Cfg.has_psr32`). -/
def Variant.hasPsr32 : Variant → Bool
  | .arm2 | .arm2as | .arm3 => false
  | .arm6 | .arm7dm => true

/-- UMULL, UMLAL, SMULL and SMLAL exist (00_scope R6 `Cfg.has_longmul`). -/
def Variant.hasLongMul : Variant → Bool
  | .arm2 | .arm2as | .arm3 | .arm6 => false
  | .arm7dm => true

/-- Width of a memory address (00_scope R6 `Cfg.addr_bits`). -/
def Variant.addrBits (v : Variant) : Nat := if v.hasPsr32 then 32 else 26

/-- The byte addresses from `first` to `last`, both included. -/
structure Region where
  first : Nat
  last : Nat
deriving DecidableEq, Repr

/-- Whether the byte address lies in the region. -/
def Region.holds (r : Region) (a : Nat) : Bool := r.first ≤ a && a ≤ r.last

/-- What a memory access is for: the third argument of `Cfg.abort` (00_scope R6, 20_memory R74). -/
inductive AccessKind where
  | read
  | write
  | fetch
deriving DecidableEq, Repr

/-- The width of a memory access (20_memory R70). -/
inductive Size where
  | byte
  | word
deriving DecidableEq, Repr

/-- One rule by which the memory manager terminates accesses: those to `region` whose size, kind and privilege
are all ticked. A list of such rules is `Cfg.abort` (00_scope R6, 20_memory R77; log 12). -/
structure AbortRule where
  region : Region
  onByte : Bool
  onWord : Bool
  onRead : Bool
  onWrite : Bool
  onFetch : Bool
  onUser : Bool
  onPrivileged : Bool
deriving DecidableEq, Repr

/-- Whether the rule terminates the access. -/
def AbortRule.hits (r : AbortRule) (addr : Nat) (size : Size) (kind : AccessKind) (privileged : Bool) : Bool :=
  r.region.holds addr
    && (match size with | .byte => r.onByte | .word => r.onWord)
    && (match kind with | .read => r.onRead | .write => r.onWrite | .fetch => r.onFetch)
    && (if privileged then r.onPrivileged else r.onUser)

/-- The configuration record of 00_scope R6. The fields the rule derives from the variant are functions of
`variant`; `Cfg.bigend` is fixed false and `Cfg.vector` is `Exc.vector`. It is plain data, held in State and
changed by no step (log 1). -/
structure Cfg where
  /-- Which member of the family. -/
  variant : Variant
  /-- On a part with the 32-bit modes: exceptions are taken into the 32-bit modes. -/
  prog32 : Bool
  /-- The addresses that hold no memory: the complement of `Cfg.mem` (log 11). -/
  holes : List Region
  /-- The memory manager's rules: `Cfg.abort` (log 12). -/
  aborts : List AbortRule
  /-- The address at which a run is over: `Cfg.end_addr` (log 21). -/
  endAddr : Option Word
deriving DecidableEq, Repr

/-- Exceptions enter the 32-bit modes: false without those modes (00_scope R6 `Cfg.prog32`). -/
def Cfg.entry32 (g : Cfg) : Bool := g.variant.hasPsr32 && g.prog32

/-- A set of instructions a coprocessor responds to: those whose low 28 bits agree with `value` on `mask`. -/
structure CpPattern where
  mask : BitVec 28
  value : BitVec 28
deriving DecidableEq, Repr

/-- Whether the instruction is one of the set. -/
def CpPattern.holds (p : CpPattern) (instr : BitVec 28) : Bool := (instr &&& p.mask) == (p.value &&& p.mask)

/-- The state `cs` of an attached coprocessor (47_coprocessor R300), opaque to the spec: the instructions it
responds to now, and its own words. Which state follows an operation is one of the free functions below. -/
structure Coproc where
  accepts : List CpPattern
  words : List Word
deriving DecidableEq, Repr, Inhabited

/-- `accepts(cs, instr)` of 47_coprocessor R300. -/
def Coproc.responds (k : Coproc) (instr : BitVec 28) : Bool := k.accepts.any fun p => p.holds instr

/-- The free values: the `n`-th value the spec leaves open (`DRAW`, 00_scope R10; log 7). No body. -/
opaque Config.freeWord : Nat → Word

/-- `cdp(cs, instr)` of coprocessor `p` (47_coprocessor R300). No body: the coprocessor's affair (log 10). -/
opaque Config.cpCdp (p : BitVec 4) (cs : Coproc) (instr : BitVec 28) : Coproc

/-- The word of `mrc(cs, instr)` (47_coprocessor R300). No body. -/
opaque Config.cpMrcWord (p : BitVec 4) (cs : Coproc) (instr : BitVec 28) : Word

/-- The new state of `mrc(cs, instr)` (47_coprocessor R300). No body. -/
opaque Config.cpMrcState (p : BitVec 4) (cs : Coproc) (instr : BitVec 28) : Coproc

/-- `mcr(cs, instr, word)` (47_coprocessor R300). No body. -/
opaque Config.cpMcr (p : BitVec 4) (cs : Coproc) (instr : BitVec 28) (w : Word) : Coproc

/-- `ldc_count(cs, instr)` less one: the rule's count is at least 1 (47_coprocessor R300). No body. -/
opaque Config.cpLdcMore (p : BitVec 4) (cs : Coproc) (instr : BitVec 28) : Nat

/-- `ldc(cs, instr, words)` (47_coprocessor R300). No body. -/
opaque Config.cpLdc (p : BitVec 4) (cs : Coproc) (instr : BitVec 28) (ws : List Word) : Coproc

/-- `stc_count(cs, instr)` less one (47_coprocessor R300). No body. -/
opaque Config.cpStcMore (p : BitVec 4) (cs : Coproc) (instr : BitVec 28) : Nat

/-- The `k`-th word of `stc(cs, instr)` (47_coprocessor R300). No body. -/
opaque Config.cpStcWord (p : BitVec 4) (cs : Coproc) (instr : BitVec 28) (k : Nat) : Word

/-- The new state of `stc(cs, instr)` (47_coprocessor R300). No body. -/
opaque Config.cpStcState (p : BitVec 4) (cs : Coproc) (instr : BitVec 28) : Coproc

/-- The state of coprocessor `p` after the reset event, "the coprocessor's affair" (70_reset R400). No body. -/
opaque Config.cpReset (p : Fin 16) (cs : Coproc) : Coproc

end Sys2Proof
end

