-- ==== Sys2Proof/Syntax.lean ====
section
/-!
DEFINITION. The instructions as syntax: one constructor of `Instr` per row of spec/opcode_table.json, with every
field the row's encoding has (30_encoding R100 to R114), ignored fields included (R131).
-/

namespace Sys2Proof

/-- The sixteen conditions of bits 31..28, in the order of their numbers (40_condition_codes R140). -/
inductive Cond where
  | eq | ne | cs | cc | mi | pl | vs | vc | hi | ls | ge | lt | gt | le | al | nv
deriving DecidableEq, Repr

/-- The shift types, in the order of their numbers (30_encoding R106, R116). -/
inductive ShiftType where
  | lsl | lsr | asr | ror
deriving DecidableEq, Repr

/-- The three defined values of the MSR field selector (30_encoding R122). -/
inductive PsrField where
  /-- 0001: the control bits I, F, M. -/
  | ctl
  /-- 1000: the flag bits N, Z, C, V. -/
  | flg
  /-- 1001: both. -/
  | all
deriving DecidableEq, Repr

/-- The instruction set. Field names: `c` condition, `sb` the S bit, `rd rn rs rm rh rl` ARM registers, `rot imm` the
rotated immediate, `amt sh` the constant shift, `rs sh` the register-specified shift, `p u w n` the addressing bits,
`off` an offset, `list` a register list, `spsr` the s bit of MRS and MSR, `a` the field selector, `op crn crd crm cp q`
the coprocessor fields, `hi mid lo` the free bits of an undefined pattern from the most significant down. -/
inductive Instr where
  /-- MUL (R210). -/
  | mul (c : Cond) (sb : Bool) (rd rn rs rm : Reg)
  /-- MLA (R211). -/
  | mla (c : Cond) (sb : Bool) (rd rn rs rm : Reg)
  /-- UMULL (R218). -/
  | umull (c : Cond) (sb : Bool) (rh rl rs rm : Reg)
  /-- UMLAL (R219). -/
  | umlal (c : Cond) (sb : Bool) (rh rl rs rm : Reg)
  /-- SMULL (R220). -/
  | smull (c : Cond) (sb : Bool) (rh rl rs rm : Reg)
  /-- SMLAL (R221). -/
  | smlal (c : Cond) (sb : Bool) (rh rl rs rm : Reg)
  /-- SWP (R320). -/
  | swp (c : Cond) (rn rd rm : Reg)
  /-- SWPB (R320). -/
  | swpb (c : Cond) (rn rd rm : Reg)
  /-- UNDEFINED_ARM2 (R358). -/
  | undefinedArm2 (c : Cond) (hi : BitVec 16) (mid : BitVec 2) (lo : BitVec 4)
  /-- MRS (R331). -/
  | mrs (c : Cond) (spsr : Bool) (rd : Reg)
  /-- MSR_reg (R332). -/
  | msrReg (c : Cond) (spsr : Bool) (a : PsrField) (rm : Reg)
  /-- MSR_imm (R332). -/
  | msrImm (c : Cond) (spsr : Bool) (a : PsrField) (rot : BitVec 4) (imm : BitVec 8)
  /-- TSTP_imm (R186). -/
  | tstpImm (c : Cond) (rn : Reg) (rot : BitVec 4) (imm : BitVec 8)
  /-- TSTP_reg (R186). -/
  | tstpReg (c : Cond) (rn : Reg) (amt : BitVec 5) (sh : ShiftType) (rm : Reg)
  /-- TSTP_regshift (R186). -/
  | tstpRegShift (c : Cond) (rn rs : Reg) (sh : ShiftType) (rm : Reg)
  /-- TEQP_imm (R186). -/
  | teqpImm (c : Cond) (rn : Reg) (rot : BitVec 4) (imm : BitVec 8)
  /-- TEQP_reg (R186). -/
  | teqpReg (c : Cond) (rn : Reg) (amt : BitVec 5) (sh : ShiftType) (rm : Reg)
  /-- TEQP_regshift (R186). -/
  | teqpRegShift (c : Cond) (rn rs : Reg) (sh : ShiftType) (rm : Reg)
  /-- CMPP_imm (R186). -/
  | cmppImm (c : Cond) (rn : Reg) (rot : BitVec 4) (imm : BitVec 8)
  /-- CMPP_reg (R186). -/
  | cmppReg (c : Cond) (rn : Reg) (amt : BitVec 5) (sh : ShiftType) (rm : Reg)
  /-- CMPP_regshift (R186). -/
  | cmppRegShift (c : Cond) (rn rs : Reg) (sh : ShiftType) (rm : Reg)
  /-- CMNP_imm (R186). -/
  | cmnpImm (c : Cond) (rn : Reg) (rot : BitVec 4) (imm : BitVec 8)
  /-- CMNP_reg (R186). -/
  | cmnpReg (c : Cond) (rn : Reg) (amt : BitVec 5) (sh : ShiftType) (rm : Reg)
  /-- CMNP_regshift (R186). -/
  | cmnpRegShift (c : Cond) (rn rs : Reg) (sh : ShiftType) (rm : Reg)
  /-- AND_imm (R166). -/
  | andImm (c : Cond) (sb : Bool) (rn rd : Reg) (rot : BitVec 4) (imm : BitVec 8)
  /-- AND_reg (R166). -/
  | andReg (c : Cond) (sb : Bool) (rn rd : Reg) (amt : BitVec 5) (sh : ShiftType) (rm : Reg)
  /-- AND_regshift (R166). -/
  | andRegShift (c : Cond) (sb : Bool) (rn rd rs : Reg) (sh : ShiftType) (rm : Reg)
  /-- EOR_imm (R167). -/
  | eorImm (c : Cond) (sb : Bool) (rn rd : Reg) (rot : BitVec 4) (imm : BitVec 8)
  /-- EOR_reg (R167). -/
  | eorReg (c : Cond) (sb : Bool) (rn rd : Reg) (amt : BitVec 5) (sh : ShiftType) (rm : Reg)
  /-- EOR_regshift (R167). -/
  | eorRegShift (c : Cond) (sb : Bool) (rn rd rs : Reg) (sh : ShiftType) (rm : Reg)
  /-- SUB_imm (R168). -/
  | subImm (c : Cond) (sb : Bool) (rn rd : Reg) (rot : BitVec 4) (imm : BitVec 8)
  /-- SUB_reg (R168). -/
  | subReg (c : Cond) (sb : Bool) (rn rd : Reg) (amt : BitVec 5) (sh : ShiftType) (rm : Reg)
  /-- SUB_regshift (R168). -/
  | subRegShift (c : Cond) (sb : Bool) (rn rd rs : Reg) (sh : ShiftType) (rm : Reg)
  /-- RSB_imm (R169). -/
  | rsbImm (c : Cond) (sb : Bool) (rn rd : Reg) (rot : BitVec 4) (imm : BitVec 8)
  /-- RSB_reg (R169). -/
  | rsbReg (c : Cond) (sb : Bool) (rn rd : Reg) (amt : BitVec 5) (sh : ShiftType) (rm : Reg)
  /-- RSB_regshift (R169). -/
  | rsbRegShift (c : Cond) (sb : Bool) (rn rd rs : Reg) (sh : ShiftType) (rm : Reg)
  /-- ADD_imm (R170). -/
  | addImm (c : Cond) (sb : Bool) (rn rd : Reg) (rot : BitVec 4) (imm : BitVec 8)
  /-- ADD_reg (R170). -/
  | addReg (c : Cond) (sb : Bool) (rn rd : Reg) (amt : BitVec 5) (sh : ShiftType) (rm : Reg)
  /-- ADD_regshift (R170). -/
  | addRegShift (c : Cond) (sb : Bool) (rn rd rs : Reg) (sh : ShiftType) (rm : Reg)
  /-- ADC_imm (R171). -/
  | adcImm (c : Cond) (sb : Bool) (rn rd : Reg) (rot : BitVec 4) (imm : BitVec 8)
  /-- ADC_reg (R171). -/
  | adcReg (c : Cond) (sb : Bool) (rn rd : Reg) (amt : BitVec 5) (sh : ShiftType) (rm : Reg)
  /-- ADC_regshift (R171). -/
  | adcRegShift (c : Cond) (sb : Bool) (rn rd rs : Reg) (sh : ShiftType) (rm : Reg)
  /-- SBC_imm (R172). -/
  | sbcImm (c : Cond) (sb : Bool) (rn rd : Reg) (rot : BitVec 4) (imm : BitVec 8)
  /-- SBC_reg (R172). -/
  | sbcReg (c : Cond) (sb : Bool) (rn rd : Reg) (amt : BitVec 5) (sh : ShiftType) (rm : Reg)
  /-- SBC_regshift (R172). -/
  | sbcRegShift (c : Cond) (sb : Bool) (rn rd rs : Reg) (sh : ShiftType) (rm : Reg)
  /-- RSC_imm (R173). -/
  | rscImm (c : Cond) (sb : Bool) (rn rd : Reg) (rot : BitVec 4) (imm : BitVec 8)
  /-- RSC_reg (R173). -/
  | rscReg (c : Cond) (sb : Bool) (rn rd : Reg) (amt : BitVec 5) (sh : ShiftType) (rm : Reg)
  /-- RSC_regshift (R173). -/
  | rscRegShift (c : Cond) (sb : Bool) (rn rd rs : Reg) (sh : ShiftType) (rm : Reg)
  /-- TST_imm (R174). -/
  | tstImm (c : Cond) (rn rd : Reg) (rot : BitVec 4) (imm : BitVec 8)
  /-- TST_reg (R174). -/
  | tstReg (c : Cond) (rn rd : Reg) (amt : BitVec 5) (sh : ShiftType) (rm : Reg)
  /-- TST_regshift (R174). -/
  | tstRegShift (c : Cond) (rn rd rs : Reg) (sh : ShiftType) (rm : Reg)
  /-- TEQ_imm (R175). -/
  | teqImm (c : Cond) (rn rd : Reg) (rot : BitVec 4) (imm : BitVec 8)
  /-- TEQ_reg (R175). -/
  | teqReg (c : Cond) (rn rd : Reg) (amt : BitVec 5) (sh : ShiftType) (rm : Reg)
  /-- TEQ_regshift (R175). -/
  | teqRegShift (c : Cond) (rn rd rs : Reg) (sh : ShiftType) (rm : Reg)
  /-- CMP_imm (R176). -/
  | cmpImm (c : Cond) (rn rd : Reg) (rot : BitVec 4) (imm : BitVec 8)
  /-- CMP_reg (R176). -/
  | cmpReg (c : Cond) (rn rd : Reg) (amt : BitVec 5) (sh : ShiftType) (rm : Reg)
  /-- CMP_regshift (R176). -/
  | cmpRegShift (c : Cond) (rn rd rs : Reg) (sh : ShiftType) (rm : Reg)
  /-- CMN_imm (R177). -/
  | cmnImm (c : Cond) (rn rd : Reg) (rot : BitVec 4) (imm : BitVec 8)
  /-- CMN_reg (R177). -/
  | cmnReg (c : Cond) (rn rd : Reg) (amt : BitVec 5) (sh : ShiftType) (rm : Reg)
  /-- CMN_regshift (R177). -/
  | cmnRegShift (c : Cond) (rn rd rs : Reg) (sh : ShiftType) (rm : Reg)
  /-- ORR_imm (R178). -/
  | orrImm (c : Cond) (sb : Bool) (rn rd : Reg) (rot : BitVec 4) (imm : BitVec 8)
  /-- ORR_reg (R178). -/
  | orrReg (c : Cond) (sb : Bool) (rn rd : Reg) (amt : BitVec 5) (sh : ShiftType) (rm : Reg)
  /-- ORR_regshift (R178). -/
  | orrRegShift (c : Cond) (sb : Bool) (rn rd rs : Reg) (sh : ShiftType) (rm : Reg)
  /-- MOV_imm (R179). -/
  | movImm (c : Cond) (sb : Bool) (rn rd : Reg) (rot : BitVec 4) (imm : BitVec 8)
  /-- MOV_reg (R179). -/
  | movReg (c : Cond) (sb : Bool) (rn rd : Reg) (amt : BitVec 5) (sh : ShiftType) (rm : Reg)
  /-- MOV_regshift (R179). -/
  | movRegShift (c : Cond) (sb : Bool) (rn rd rs : Reg) (sh : ShiftType) (rm : Reg)
  /-- BIC_imm (R180). -/
  | bicImm (c : Cond) (sb : Bool) (rn rd : Reg) (rot : BitVec 4) (imm : BitVec 8)
  /-- BIC_reg (R180). -/
  | bicReg (c : Cond) (sb : Bool) (rn rd : Reg) (amt : BitVec 5) (sh : ShiftType) (rm : Reg)
  /-- BIC_regshift (R180). -/
  | bicRegShift (c : Cond) (sb : Bool) (rn rd rs : Reg) (sh : ShiftType) (rm : Reg)
  /-- MVN_imm (R181). -/
  | mvnImm (c : Cond) (sb : Bool) (rn rd : Reg) (rot : BitVec 4) (imm : BitVec 8)
  /-- MVN_reg (R181). -/
  | mvnReg (c : Cond) (sb : Bool) (rn rd : Reg) (amt : BitVec 5) (sh : ShiftType) (rm : Reg)
  /-- MVN_regshift (R181). -/
  | mvnRegShift (c : Cond) (sb : Bool) (rn rd rs : Reg) (sh : ShiftType) (rm : Reg)
  /-- LDRT_imm (R239). -/
  | ldrtImm (c : Cond) (u : Bool) (rn rd : Reg) (off : BitVec 12)
  /-- LDRT_reg (R239). -/
  | ldrtReg (c : Cond) (u : Bool) (rn rd : Reg) (amt : BitVec 5) (sh : ShiftType) (rm : Reg)
  /-- STRT_imm (R240). -/
  | strtImm (c : Cond) (u : Bool) (rn rd : Reg) (off : BitVec 12)
  /-- STRT_reg (R240). -/
  | strtReg (c : Cond) (u : Bool) (rn rd : Reg) (amt : BitVec 5) (sh : ShiftType) (rm : Reg)
  /-- LDRBT_imm (R241). -/
  | ldrbtImm (c : Cond) (u : Bool) (rn rd : Reg) (off : BitVec 12)
  /-- LDRBT_reg (R241). -/
  | ldrbtReg (c : Cond) (u : Bool) (rn rd : Reg) (amt : BitVec 5) (sh : ShiftType) (rm : Reg)
  /-- STRBT_imm (R242). -/
  | strbtImm (c : Cond) (u : Bool) (rn rd : Reg) (off : BitVec 12)
  /-- STRBT_reg (R242). -/
  | strbtReg (c : Cond) (u : Bool) (rn rd : Reg) (amt : BitVec 5) (sh : ShiftType) (rm : Reg)
  /-- LDR_imm (R235). -/
  | ldrImm (c : Cond) (p u w : Bool) (rn rd : Reg) (off : BitVec 12)
  /-- LDR_reg (R235). -/
  | ldrReg (c : Cond) (p u w : Bool) (rn rd : Reg) (amt : BitVec 5) (sh : ShiftType) (rm : Reg)
  /-- STR_imm (R236). -/
  | strImm (c : Cond) (p u w : Bool) (rn rd : Reg) (off : BitVec 12)
  /-- STR_reg (R236). -/
  | strReg (c : Cond) (p u w : Bool) (rn rd : Reg) (amt : BitVec 5) (sh : ShiftType) (rm : Reg)
  /-- LDRB_imm (R237). -/
  | ldrbImm (c : Cond) (p u w : Bool) (rn rd : Reg) (off : BitVec 12)
  /-- LDRB_reg (R237). -/
  | ldrbReg (c : Cond) (p u w : Bool) (rn rd : Reg) (amt : BitVec 5) (sh : ShiftType) (rm : Reg)
  /-- STRB_imm (R238). -/
  | strbImm (c : Cond) (p u w : Bool) (rn rd : Reg) (off : BitVec 12)
  /-- STRB_reg (R238). -/
  | strbReg (c : Cond) (p u w : Bool) (rn rd : Reg) (amt : BitVec 5) (sh : ShiftType) (rm : Reg)
  /-- UNDEFINED (R358). -/
  | undefined (c : Cond) (hi : BitVec 20) (lo : BitVec 4)
  /-- LDMIA (R266). -/
  | ldmia (c : Cond) (sb w : Bool) (rn : Reg) (list : BitVec 16)
  /-- LDMIB (R267). -/
  | ldmib (c : Cond) (sb w : Bool) (rn : Reg) (list : BitVec 16)
  /-- LDMDA (R268). -/
  | ldmda (c : Cond) (sb w : Bool) (rn : Reg) (list : BitVec 16)
  /-- LDMDB (R269). -/
  | ldmdb (c : Cond) (sb w : Bool) (rn : Reg) (list : BitVec 16)
  /-- STMIA (R270). -/
  | stmia (c : Cond) (sb w : Bool) (rn : Reg) (list : BitVec 16)
  /-- STMIB (R271). -/
  | stmib (c : Cond) (sb w : Bool) (rn : Reg) (list : BitVec 16)
  /-- STMDA (R272). -/
  | stmda (c : Cond) (sb w : Bool) (rn : Reg) (list : BitVec 16)
  /-- STMDB (R273). -/
  | stmdb (c : Cond) (sb w : Bool) (rn : Reg) (list : BitVec 16)
  /-- B (R201). -/
  | b (c : Cond) (off : BitVec 24)
  /-- BL (R202). -/
  | bl (c : Cond) (off : BitVec 24)
  /-- LDC (R303). -/
  | ldc (c : Cond) (p u n w : Bool) (rn : Reg) (crd cp : BitVec 4) (off : BitVec 8)
  /-- STC (R304). -/
  | stc (c : Cond) (p u n w : Bool) (rn : Reg) (crd cp : BitVec 4) (off : BitVec 8)
  /-- CDP (R302). -/
  | cdp (c : Cond) (op crn crd cp : BitVec 4) (q : BitVec 3) (crm : BitVec 4)
  /-- MRC (R306). -/
  | mrc (c : Cond) (op : BitVec 3) (crn : BitVec 4) (rd : Reg) (cp : BitVec 4) (q : BitVec 3) (crm : BitVec 4)
  /-- MCR (R305). -/
  | mcr (c : Cond) (op : BitVec 3) (crn : BitVec 4) (rd : Reg) (cp : BitVec 4) (q : BitVec 3) (crm : BitVec 4)
  /-- SWI (R290). -/
  | swi (c : Cond) (comment : BitVec 24)
deriving DecidableEq, Repr

/-- The condition field of an instruction: every instruction has one (30_encoding R101). -/
def Instr.cond : Instr → Cond
  | .mul c _ _ _ _ _ => c
  | .mla c _ _ _ _ _ => c
  | .umull c _ _ _ _ _ => c
  | .umlal c _ _ _ _ _ => c
  | .smull c _ _ _ _ _ => c
  | .smlal c _ _ _ _ _ => c
  | .swp c _ _ _ => c
  | .swpb c _ _ _ => c
  | .undefinedArm2 c _ _ _ => c
  | .mrs c _ _ => c
  | .msrReg c _ _ _ => c
  | .msrImm c _ _ _ _ => c
  | .tstpImm c _ _ _ => c
  | .tstpReg c _ _ _ _ => c
  | .tstpRegShift c _ _ _ _ => c
  | .teqpImm c _ _ _ => c
  | .teqpReg c _ _ _ _ => c
  | .teqpRegShift c _ _ _ _ => c
  | .cmppImm c _ _ _ => c
  | .cmppReg c _ _ _ _ => c
  | .cmppRegShift c _ _ _ _ => c
  | .cmnpImm c _ _ _ => c
  | .cmnpReg c _ _ _ _ => c
  | .cmnpRegShift c _ _ _ _ => c
  | .andImm c _ _ _ _ _ => c
  | .andReg c _ _ _ _ _ _ => c
  | .andRegShift c _ _ _ _ _ _ => c
  | .eorImm c _ _ _ _ _ => c
  | .eorReg c _ _ _ _ _ _ => c
  | .eorRegShift c _ _ _ _ _ _ => c
  | .subImm c _ _ _ _ _ => c
  | .subReg c _ _ _ _ _ _ => c
  | .subRegShift c _ _ _ _ _ _ => c
  | .rsbImm c _ _ _ _ _ => c
  | .rsbReg c _ _ _ _ _ _ => c
  | .rsbRegShift c _ _ _ _ _ _ => c
  | .addImm c _ _ _ _ _ => c
  | .addReg c _ _ _ _ _ _ => c
  | .addRegShift c _ _ _ _ _ _ => c
  | .adcImm c _ _ _ _ _ => c
  | .adcReg c _ _ _ _ _ _ => c
  | .adcRegShift c _ _ _ _ _ _ => c
  | .sbcImm c _ _ _ _ _ => c
  | .sbcReg c _ _ _ _ _ _ => c
  | .sbcRegShift c _ _ _ _ _ _ => c
  | .rscImm c _ _ _ _ _ => c
  | .rscReg c _ _ _ _ _ _ => c
  | .rscRegShift c _ _ _ _ _ _ => c
  | .tstImm c _ _ _ _ => c
  | .tstReg c _ _ _ _ _ => c
  | .tstRegShift c _ _ _ _ _ => c
  | .teqImm c _ _ _ _ => c
  | .teqReg c _ _ _ _ _ => c
  | .teqRegShift c _ _ _ _ _ => c
  | .cmpImm c _ _ _ _ => c
  | .cmpReg c _ _ _ _ _ => c
  | .cmpRegShift c _ _ _ _ _ => c
  | .cmnImm c _ _ _ _ => c
  | .cmnReg c _ _ _ _ _ => c
  | .cmnRegShift c _ _ _ _ _ => c
  | .orrImm c _ _ _ _ _ => c
  | .orrReg c _ _ _ _ _ _ => c
  | .orrRegShift c _ _ _ _ _ _ => c
  | .movImm c _ _ _ _ _ => c
  | .movReg c _ _ _ _ _ _ => c
  | .movRegShift c _ _ _ _ _ _ => c
  | .bicImm c _ _ _ _ _ => c
  | .bicReg c _ _ _ _ _ _ => c
  | .bicRegShift c _ _ _ _ _ _ => c
  | .mvnImm c _ _ _ _ _ => c
  | .mvnReg c _ _ _ _ _ _ => c
  | .mvnRegShift c _ _ _ _ _ _ => c
  | .ldrtImm c _ _ _ _ => c
  | .ldrtReg c _ _ _ _ _ _ => c
  | .strtImm c _ _ _ _ => c
  | .strtReg c _ _ _ _ _ _ => c
  | .ldrbtImm c _ _ _ _ => c
  | .ldrbtReg c _ _ _ _ _ _ => c
  | .strbtImm c _ _ _ _ => c
  | .strbtReg c _ _ _ _ _ _ => c
  | .ldrImm c _ _ _ _ _ _ => c
  | .ldrReg c _ _ _ _ _ _ _ _ => c
  | .strImm c _ _ _ _ _ _ => c
  | .strReg c _ _ _ _ _ _ _ _ => c
  | .ldrbImm c _ _ _ _ _ _ => c
  | .ldrbReg c _ _ _ _ _ _ _ _ => c
  | .strbImm c _ _ _ _ _ _ => c
  | .strbReg c _ _ _ _ _ _ _ _ => c
  | .undefined c _ _ => c
  | .ldmia c _ _ _ _ => c
  | .ldmib c _ _ _ _ => c
  | .ldmda c _ _ _ _ => c
  | .ldmdb c _ _ _ _ => c
  | .stmia c _ _ _ _ => c
  | .stmib c _ _ _ _ => c
  | .stmda c _ _ _ _ => c
  | .stmdb c _ _ _ _ => c
  | .b c _ => c
  | .bl c _ => c
  | .ldc c _ _ _ _ _ _ _ _ => c
  | .stc c _ _ _ _ _ _ _ _ => c
  | .cdp c _ _ _ _ _ _ => c
  | .mrc c _ _ _ _ _ _ => c
  | .mcr c _ _ _ _ _ _ => c
  | .swi c _ => c

end Sys2Proof
end

