-- ==== Sys2Proof/WellFormed.lean ====
section
/-!
DEFINITION. Which instructions a part has an encoding for: the `requires` of spec/opcode_table.json and the field
values that belong to another row (30_encoding R122, R125, R126).
-/

namespace Sys2Proof

/-- The instruction has an encoding on the part `v`, that is, some word decodes to it: the part has the instruction
(00_scope R6), a test's Rd field is not 1111, which is the P form, and a plain transfer is not post-indexed with
W = 1, which is the T form (30_encoding R126). -/
def WellFormed (v : Variant) : Instr → Bool
  | .mul _ _ _ _ _ _ => true
  | .mla _ _ _ _ _ _ => true
  | .umull _ _ _ _ _ _ => v.hasLongMul
  | .umlal _ _ _ _ _ _ => v.hasLongMul
  | .smull _ _ _ _ _ _ => v.hasLongMul
  | .smlal _ _ _ _ _ _ => v.hasLongMul
  | .swp _ _ _ _ => v.hasSwp
  | .swpb _ _ _ _ => v.hasSwp
  | .undefinedArm2 _ _ _ _ => v == .arm2
  | .mrs _ _ _ => v.hasPsr32
  | .msrReg _ _ _ _ => v.hasPsr32
  | .msrImm _ _ _ _ _ => v.hasPsr32
  | .tstpImm _ _ _ _ => true
  | .tstpReg _ _ _ _ _ => true
  | .tstpRegShift _ _ _ _ _ => true
  | .teqpImm _ _ _ _ => true
  | .teqpReg _ _ _ _ _ => true
  | .teqpRegShift _ _ _ _ _ => true
  | .cmppImm _ _ _ _ => true
  | .cmppReg _ _ _ _ _ => true
  | .cmppRegShift _ _ _ _ _ => true
  | .cmnpImm _ _ _ _ => true
  | .cmnpReg _ _ _ _ _ => true
  | .cmnpRegShift _ _ _ _ _ => true
  | .andImm _ _ _ _ _ _ => true
  | .andReg _ _ _ _ _ _ _ => true
  | .andRegShift _ _ _ _ _ _ _ => true
  | .eorImm _ _ _ _ _ _ => true
  | .eorReg _ _ _ _ _ _ _ => true
  | .eorRegShift _ _ _ _ _ _ _ => true
  | .subImm _ _ _ _ _ _ => true
  | .subReg _ _ _ _ _ _ _ => true
  | .subRegShift _ _ _ _ _ _ _ => true
  | .rsbImm _ _ _ _ _ _ => true
  | .rsbReg _ _ _ _ _ _ _ => true
  | .rsbRegShift _ _ _ _ _ _ _ => true
  | .addImm _ _ _ _ _ _ => true
  | .addReg _ _ _ _ _ _ _ => true
  | .addRegShift _ _ _ _ _ _ _ => true
  | .adcImm _ _ _ _ _ _ => true
  | .adcReg _ _ _ _ _ _ _ => true
  | .adcRegShift _ _ _ _ _ _ _ => true
  | .sbcImm _ _ _ _ _ _ => true
  | .sbcReg _ _ _ _ _ _ _ => true
  | .sbcRegShift _ _ _ _ _ _ _ => true
  | .rscImm _ _ _ _ _ _ => true
  | .rscReg _ _ _ _ _ _ _ => true
  | .rscRegShift _ _ _ _ _ _ _ => true
  | .tstImm _ _ rd _ _ => rd != 15#4
  | .tstReg _ _ rd _ _ _ => rd != 15#4
  | .tstRegShift _ _ rd _ _ _ => rd != 15#4
  | .teqImm _ _ rd _ _ => rd != 15#4
  | .teqReg _ _ rd _ _ _ => rd != 15#4
  | .teqRegShift _ _ rd _ _ _ => rd != 15#4
  | .cmpImm _ _ rd _ _ => rd != 15#4
  | .cmpReg _ _ rd _ _ _ => rd != 15#4
  | .cmpRegShift _ _ rd _ _ _ => rd != 15#4
  | .cmnImm _ _ rd _ _ => rd != 15#4
  | .cmnReg _ _ rd _ _ _ => rd != 15#4
  | .cmnRegShift _ _ rd _ _ _ => rd != 15#4
  | .orrImm _ _ _ _ _ _ => true
  | .orrReg _ _ _ _ _ _ _ => true
  | .orrRegShift _ _ _ _ _ _ _ => true
  | .movImm _ _ _ _ _ _ => true
  | .movReg _ _ _ _ _ _ _ => true
  | .movRegShift _ _ _ _ _ _ _ => true
  | .bicImm _ _ _ _ _ _ => true
  | .bicReg _ _ _ _ _ _ _ => true
  | .bicRegShift _ _ _ _ _ _ _ => true
  | .mvnImm _ _ _ _ _ _ => true
  | .mvnReg _ _ _ _ _ _ _ => true
  | .mvnRegShift _ _ _ _ _ _ _ => true
  | .ldrtImm _ _ _ _ _ => true
  | .ldrtReg _ _ _ _ _ _ _ => true
  | .strtImm _ _ _ _ _ => true
  | .strtReg _ _ _ _ _ _ _ => true
  | .ldrbtImm _ _ _ _ _ => true
  | .ldrbtReg _ _ _ _ _ _ _ => true
  | .strbtImm _ _ _ _ _ => true
  | .strbtReg _ _ _ _ _ _ _ => true
  | .ldrImm _ p _ w _ _ _ => p || !w
  | .ldrReg _ p _ w _ _ _ _ _ => p || !w
  | .strImm _ p _ w _ _ _ => p || !w
  | .strReg _ p _ w _ _ _ _ _ => p || !w
  | .ldrbImm _ p _ w _ _ _ => p || !w
  | .ldrbReg _ p _ w _ _ _ _ _ => p || !w
  | .strbImm _ p _ w _ _ _ => p || !w
  | .strbReg _ p _ w _ _ _ _ _ => p || !w
  | .undefined _ _ _ => true
  | .ldmia _ _ _ _ _ => true
  | .ldmib _ _ _ _ _ => true
  | .ldmda _ _ _ _ _ => true
  | .ldmdb _ _ _ _ _ => true
  | .stmia _ _ _ _ _ => true
  | .stmib _ _ _ _ _ => true
  | .stmda _ _ _ _ _ => true
  | .stmdb _ _ _ _ _ => true
  | .b _ _ => true
  | .bl _ _ => true
  | .ldc _ _ _ _ _ _ _ _ _ => true
  | .stc _ _ _ _ _ _ _ _ _ => true
  | .cdp _ _ _ _ _ _ _ => true
  | .mrc _ _ _ _ _ _ _ => true
  | .mcr _ _ _ _ _ _ _ => true
  | .swi _ _ => true

end Sys2Proof
end

