-- ==== Sys2Proof/Decode.lean ====
section
/-!
DEFINITION. The decoder (30_encoding R125), total on every word and rejecting by name, and after it the encoder,
written from the bitmaps of 30_encoding R102 to R114.
-/

namespace Sys2Proof

/-- Why the decoder rejects. Each is a refusal of the step, and safe: the spec gives such a word no meaning
(30_encoding R127). -/
inductive Reject where
  /-- Fewer than four bytes: every instruction is one word (30_encoding R100). -/
  | shortInstruction
  /-- The space data processing gives up, bits 7 and 4 both 1, with no instruction of the part (R125 lines 1.2 and 1.5). -/
  | unallocatedExtension
  /-- A test operation with S clear that is no MRS or MSR of the part (R125 line 2.2). -/
  | unallocatedPsrSpace
  /-- MSR with a reserved field selector (R122, R127 (c)). -/
  | reservedPsrField
deriving DecidableEq, Repr

/-- The `len` bits of `w` from bit `lo` up (00_scope R8). -/
def field (w : Word) (lo len : Nat) : BitVec len := w.extractLsb' lo len

/-- Bit `i` of `w`. -/
def flag (w : Word) (i : Nat) : Bool := w.getLsbD i

/-- Four bytes as the word the hardware stores in them, the byte at the lowest address first (20_memory R71, R72). -/
def wordOfBytes (b0 b1 b2 b3 : Byte) : Word := b3 ++ b2 ++ b1 ++ b0

/-- The bytes of a word, the one for the lowest address first (20_memory R71). -/
def bytesOfWord (w : Word) : List Byte :=
  [field w 0 8, field w 8 8, field w 16 8, field w 24 8]

/-- The condition with the number `b` (40_condition_codes R140). -/
def Cond.ofBits (b : BitVec 4) : Cond :=
  match b with
  | 0#4 => .eq | 1#4 => .ne | 2#4 => .cs | 3#4 => .cc | 4#4 => .mi | 5#4 => .pl | 6#4 => .vs | 7#4 => .vc
  | 8#4 => .hi | 9#4 => .ls | 10#4 => .ge | 11#4 => .lt | 12#4 => .gt | 13#4 => .le | 14#4 => .al | _ => .nv

/-- The number of a condition (40_condition_codes R140). -/
def Cond.bits : Cond → BitVec 4
  | .eq => 0#4 | .ne => 1#4 | .cs => 2#4 | .cc => 3#4 | .mi => 4#4 | .pl => 5#4 | .vs => 6#4 | .vc => 7#4
  | .hi => 8#4 | .ls => 9#4 | .ge => 10#4 | .lt => 11#4 | .gt => 12#4 | .le => 13#4 | .al => 14#4 | .nv => 15#4

/-- The shift type with the number `b` (30_encoding R106, R116). -/
def ShiftType.ofBits (b : BitVec 2) : ShiftType :=
  match b with
  | 0#2 => .lsl | 1#2 => .lsr | 2#2 => .asr | _ => .ror

/-- The number of a shift type (30_encoding R106, R116). -/
def ShiftType.bits : ShiftType → BitVec 2
  | .lsl => 0#2 | .lsr => 1#2 | .asr => 2#2 | .ror => 3#2

/-- The field selector with the number `b`, if it is one of the three defined (30_encoding R122). -/
def PsrField.ofBits (b : BitVec 4) : Option PsrField :=
  match b with
  | 1#4 => some .ctl | 8#4 => some .flg | 9#4 => some .all | _ => none

/-- The number of a field selector (30_encoding R122). -/
def PsrField.bits : PsrField → BitVec 4
  | .ctl => 1#4 | .flg => 8#4 | .all => 9#4

/-- Line 1 of 30_encoding R125: bits 27..25 = 000, bit 7 = 1 and bit 4 = 1. -/
def decodeExtension (v : Variant) (c : Cond) (w : Word) : Except Reject Instr :=
  let sb := flag w 20
  let r19 := field w 16 4
  let r15 := field w 12 4
  let r11 := field w 8 4
  let r3 := field w 0 4
  if field w 22 6 = 0#6 ∧ field w 4 4 = 9#4 then
    if flag w 21 then .ok (.mla c sb r19 r15 r11 r3) else .ok (.mul c sb r19 r15 r11 r3)
  else if field w 23 5 = 1#5 ∧ field w 4 4 = 9#4 then
    if v.hasLongMul then
      match field w 21 2 with
      | 0#2 => .ok (.umull c sb r19 r15 r11 r3)
      | 1#2 => .ok (.umlal c sb r19 r15 r11 r3)
      | 2#2 => .ok (.smull c sb r19 r15 r11 r3)
      | _ => .ok (.smlal c sb r19 r15 r11 r3)
    else .error .unallocatedExtension
  else if field w 23 5 = 2#5 ∧ field w 20 2 = 0#2 ∧ field w 4 8 = 9#8 ∧ v.hasSwp then
    if flag w 22 then .ok (.swpb c r19 r15 r3) else .ok (.swp c r19 r15 r3)
  else if v = .arm2 ∧ field w 24 4 = 1#4 then
    .ok (.undefinedArm2 c (field w 8 16) (field w 5 2) r3)
  else .error .unallocatedExtension

/-- Line 2 of 30_encoding R125: bits 27..26 = 00, bits 24..23 = 10 and bit 20 = 0, a test operation with S clear. -/
def decodePsrSpace (v : Variant) (c : Cond) (w : Word) : Except Reject Instr :=
  if v.hasPsr32 then
    if !flag w 25 && field w 21 1 == 0#1 && field w 16 4 == 15#4 && field w 0 12 == 0#12 then
      .ok (.mrs c (flag w 22) (field w 12 4))
    else if !flag w 25 && field w 21 1 == 1#1 && field w 12 4 == 15#4 && field w 4 8 == 0#8 then
      match PsrField.ofBits (field w 16 4) with
      | some a => .ok (.msrReg c (flag w 22) a (field w 0 4))
      | none => .error .reservedPsrField
    else if flag w 25 && field w 21 1 == 1#1 && field w 12 4 == 15#4 then
      match PsrField.ofBits (field w 16 4) with
      | some a => .ok (.msrImm c (flag w 22) a (field w 8 4) (field w 0 8))
      | none => .error .reservedPsrField
    else .error .unallocatedPsrSpace
  else .error .unallocatedPsrSpace

/-- Line 4 of 30_encoding R125: data processing, immediate form (R102); a test with Rd = 1111 is the P form (R126). -/
def decodeDpImm (c : Cond) (w : Word) : Instr :=
  let sb := flag w 20
  let rn := field w 16 4
  let rd := field w 12 4
  let rot := field w 8 4
  let imm := field w 0 8
  match field w 21 4 with
  | 0#4 => .andImm c sb rn rd rot imm
  | 1#4 => .eorImm c sb rn rd rot imm
  | 2#4 => .subImm c sb rn rd rot imm
  | 3#4 => .rsbImm c sb rn rd rot imm
  | 4#4 => .addImm c sb rn rd rot imm
  | 5#4 => .adcImm c sb rn rd rot imm
  | 6#4 => .sbcImm c sb rn rd rot imm
  | 7#4 => .rscImm c sb rn rd rot imm
  | 8#4 => if rd = 15#4 then .tstpImm c rn rot imm else .tstImm c rn rd rot imm
  | 9#4 => if rd = 15#4 then .teqpImm c rn rot imm else .teqImm c rn rd rot imm
  | 10#4 => if rd = 15#4 then .cmppImm c rn rot imm else .cmpImm c rn rd rot imm
  | 11#4 => if rd = 15#4 then .cmnpImm c rn rot imm else .cmnImm c rn rd rot imm
  | 12#4 => .orrImm c sb rn rd rot imm
  | 13#4 => .movImm c sb rn rd rot imm
  | 14#4 => .bicImm c sb rn rd rot imm
  | _ => .mvnImm c sb rn rd rot imm

/-- Line 3 of 30_encoding R125, bit 4 = 0: shift by a constant (R102, R116). -/
def decodeDpReg (c : Cond) (w : Word) : Instr :=
  let sb := flag w 20
  let rn := field w 16 4
  let rd := field w 12 4
  let amt := field w 7 5
  let sh := ShiftType.ofBits (field w 5 2)
  let rm := field w 0 4
  match field w 21 4 with
  | 0#4 => .andReg c sb rn rd amt sh rm
  | 1#4 => .eorReg c sb rn rd amt sh rm
  | 2#4 => .subReg c sb rn rd amt sh rm
  | 3#4 => .rsbReg c sb rn rd amt sh rm
  | 4#4 => .addReg c sb rn rd amt sh rm
  | 5#4 => .adcReg c sb rn rd amt sh rm
  | 6#4 => .sbcReg c sb rn rd amt sh rm
  | 7#4 => .rscReg c sb rn rd amt sh rm
  | 8#4 => if rd = 15#4 then .tstpReg c rn amt sh rm else .tstReg c rn rd amt sh rm
  | 9#4 => if rd = 15#4 then .teqpReg c rn amt sh rm else .teqReg c rn rd amt sh rm
  | 10#4 => if rd = 15#4 then .cmppReg c rn amt sh rm else .cmpReg c rn rd amt sh rm
  | 11#4 => if rd = 15#4 then .cmnpReg c rn amt sh rm else .cmnReg c rn rd amt sh rm
  | 12#4 => .orrReg c sb rn rd amt sh rm
  | 13#4 => .movReg c sb rn rd amt sh rm
  | 14#4 => .bicReg c sb rn rd amt sh rm
  | _ => .mvnReg c sb rn rd amt sh rm

/-- Line 3 of 30_encoding R125, bit 4 = 1: shift by a register (R102, R116). -/
def decodeDpRegShift (c : Cond) (w : Word) : Instr :=
  let sb := flag w 20
  let rn := field w 16 4
  let rd := field w 12 4
  let rs := field w 8 4
  let sh := ShiftType.ofBits (field w 5 2)
  let rm := field w 0 4
  match field w 21 4 with
  | 0#4 => .andRegShift c sb rn rd rs sh rm
  | 1#4 => .eorRegShift c sb rn rd rs sh rm
  | 2#4 => .subRegShift c sb rn rd rs sh rm
  | 3#4 => .rsbRegShift c sb rn rd rs sh rm
  | 4#4 => .addRegShift c sb rn rd rs sh rm
  | 5#4 => .adcRegShift c sb rn rd rs sh rm
  | 6#4 => .sbcRegShift c sb rn rd rs sh rm
  | 7#4 => .rscRegShift c sb rn rd rs sh rm
  | 8#4 => if rd = 15#4 then .tstpRegShift c rn rs sh rm else .tstRegShift c rn rd rs sh rm
  | 9#4 => if rd = 15#4 then .teqpRegShift c rn rs sh rm else .teqRegShift c rn rd rs sh rm
  | 10#4 => if rd = 15#4 then .cmppRegShift c rn rs sh rm else .cmpRegShift c rn rd rs sh rm
  | 11#4 => if rd = 15#4 then .cmnpRegShift c rn rs sh rm else .cmnRegShift c rn rd rs sh rm
  | 12#4 => .orrRegShift c sb rn rd rs sh rm
  | 13#4 => .movRegShift c sb rn rd rs sh rm
  | 14#4 => .bicRegShift c sb rn rd rs sh rm
  | _ => .mvnRegShift c sb rn rd rs sh rm

/-- Line 5 of 30_encoding R125: single data transfer, immediate form (R106); P = 0 with W = 1 is the T form (R126). -/
def decodeTransferImm (c : Cond) (w : Word) : Instr :=
  let p := flag w 24
  let u := flag w 23
  let wb := flag w 21
  let rn := field w 16 4
  let rd := field w 12 4
  let off := field w 0 12
  match flag w 22, flag w 20 with
  | false, true => if !p && wb then .ldrtImm c u rn rd off else .ldrImm c p u wb rn rd off
  | false, false => if !p && wb then .strtImm c u rn rd off else .strImm c p u wb rn rd off
  | true, true => if !p && wb then .ldrbtImm c u rn rd off else .ldrbImm c p u wb rn rd off
  | true, false => if !p && wb then .strbtImm c u rn rd off else .strbImm c p u wb rn rd off

/-- Line 6 of 30_encoding R125, bit 4 = 0: single data transfer, register form (R106). -/
def decodeTransferReg (c : Cond) (w : Word) : Instr :=
  let p := flag w 24
  let u := flag w 23
  let wb := flag w 21
  let rn := field w 16 4
  let rd := field w 12 4
  let amt := field w 7 5
  let sh := ShiftType.ofBits (field w 5 2)
  let rm := field w 0 4
  match flag w 22, flag w 20 with
  | false, true => if !p && wb then .ldrtReg c u rn rd amt sh rm else .ldrReg c p u wb rn rd amt sh rm
  | false, false => if !p && wb then .strtReg c u rn rd amt sh rm else .strReg c p u wb rn rd amt sh rm
  | true, true => if !p && wb then .ldrbtReg c u rn rd amt sh rm else .ldrbReg c p u wb rn rd amt sh rm
  | true, false => if !p && wb then .strbtReg c u rn rd amt sh rm else .strbReg c p u wb rn rd amt sh rm

/-- Line 7 of 30_encoding R125: block data transfer (R107); P and U select the mode (45_block R261). -/
def decodeBlock (c : Cond) (w : Word) : Instr :=
  let sb := flag w 22
  let wb := flag w 21
  let rn := field w 16 4
  let list := field w 0 16
  match flag w 20, flag w 24, flag w 23 with
  | true, false, true => .ldmia c sb wb rn list
  | true, true, true => .ldmib c sb wb rn list
  | true, false, false => .ldmda c sb wb rn list
  | true, true, false => .ldmdb c sb wb rn list
  | false, false, true => .stmia c sb wb rn list
  | false, true, true => .stmib c sb wb rn list
  | false, false, false => .stmda c sb wb rn list
  | false, true, false => .stmdb c sb wb rn list

/-- Lines 9 to 11 of 30_encoding R125 but for the coprocessor data transfer: bits 27..25 = 111 (R108, R109, R111). -/
def decodeCoprocessor (c : Cond) (w : Word) : Instr :=
  let r19 := field w 16 4
  let r15 := field w 12 4
  let cp := field w 8 4
  let q := field w 5 3
  let r3 := field w 0 4
  if flag w 24 then .swi c (field w 0 24)
  else if flag w 4 then
    if flag w 20 then .mrc c (field w 21 3) r19 r15 cp q r3 else .mcr c (field w 21 3) r19 r15 cp q r3
  else .cdp c (field w 20 4) r19 r15 cp q r3

/-- The space of a test operation with S clear (30_encoding R125 line 2). -/
def inPsrSpace (w : Word) : Bool := field w 23 2 == 2#2 && !flag w 20

/-- The decode procedure of 30_encoding R125 on the part `v`: the first line that applies decides. -/
def decode (v : Variant) (w : Word) : Except Reject Instr :=
  let c := Cond.ofBits (field w 28 4)
  match field w 25 3 with
  | 0#3 =>
    if flag w 7 && flag w 4 then decodeExtension v c w
    else if inPsrSpace w then decodePsrSpace v c w
    else if flag w 4 then .ok (decodeDpRegShift c w)
    else .ok (decodeDpReg c w)
  | 1#3 => if inPsrSpace w then decodePsrSpace v c w else .ok (decodeDpImm c w)
  | 2#3 => .ok (decodeTransferImm c w)
  | 3#3 => if flag w 4 then .ok (.undefined c (field w 5 20) (field w 0 4)) else .ok (decodeTransferReg c w)
  | 4#3 => .ok (decodeBlock c w)
  | 5#3 => if flag w 24 then .ok (.bl c (field w 0 24)) else .ok (.b c (field w 0 24))
  | 6#3 =>
    if flag w 20 then
      .ok (.ldc c (flag w 24) (flag w 23) (flag w 22) (flag w 21) (field w 16 4) (field w 12 4) (field w 8 4) (field w 0 8))
    else
      .ok (.stc c (flag w 24) (flag w 23) (flag w 22) (flag w 21) (field w 16 4) (field w 12 4) (field w 8 4) (field w 0 8))
  | _ => .ok (decodeCoprocessor c w)

/-- The decoder on bytes as they lie in memory, lowest address first: one word, whatever follows it (30_encoding R100,
20_memory R72). -/
def decodeBytes (v : Variant) : List Byte → Except Reject Instr
  | b0 :: b1 :: b2 :: b3 :: _ => decode v (wordOfBytes b0 b1 b2 b3)
  | _ => .error .shortInstruction

/-- The part that reads the word: ARM7DM, which has every instruction but one, or, for a word that only the ARM 2
reads (the pattern xxxx0001 … 1yy1 outside SWP, 30_encoding R114), ARM 2 (log 20). -/
def partReading (w : Word) : Variant :=
  match decode .arm7dm w with
  | .ok _ => .arm7dm
  | .error _ => match decode .arm2 w with
    | .ok _ => .arm2
    | .error _ => .arm7dm

/-- The instruction the decoder reads from an instruction of `nbits` bits `w`, the bits above them 0: the word laid out
in bytes as the hardware stores it, given to the decoder of the part that reads it. -/
def decodeTableWord (nbits w : Nat) : Option Instr :=
  let word : Word := BitVec.ofNat 32 (w % 2 ^ nbits)
  (decodeBytes (partReading word) (bytesOfWord word)).toOption

/-- Data processing, immediate form (30_encoding R102). -/
def layoutDpImm (op : BitVec 4) (c : Cond) (sb : Bool) (rn rd : Reg) (rot : BitVec 4) (imm : BitVec 8) : Word :=
  c.bits ++ 0b001#3 ++ op ++ BitVec.ofBool sb ++ rn ++ rd ++ rot ++ imm

/-- Data processing, register form, bit 4 = 0 (30_encoding R102). -/
def layoutDpReg (op : BitVec 4) (c : Cond) (sb : Bool) (rn rd : Reg) (amt : BitVec 5) (sh : ShiftType) (rm : Reg) : Word :=
  c.bits ++ 0b000#3 ++ op ++ BitVec.ofBool sb ++ rn ++ rd ++ amt ++ sh.bits ++ 0b0#1 ++ rm

/-- Data processing, register form, bit 4 = 1 and bit 7 = 0 (30_encoding R102). -/
def layoutDpRegShift (op : BitVec 4) (c : Cond) (sb : Bool) (rn rd rs : Reg) (sh : ShiftType) (rm : Reg) : Word :=
  c.bits ++ 0b000#3 ++ op ++ BitVec.ofBool sb ++ rn ++ rd ++ rs ++ 0b0#1 ++ sh.bits ++ 0b1#1 ++ rm

/-- Multiply and long multiply: `op` is bits 27..21 (30_encoding R104, R105). -/
def layoutMul (op : BitVec 7) (c : Cond) (sb : Bool) (r19 r15 r11 r3 : Reg) : Word :=
  c.bits ++ op ++ BitVec.ofBool sb ++ r19 ++ r15 ++ r11 ++ 0b1001#4 ++ r3

/-- Single data swap (30_encoding R112). -/
def layoutSwap (b : Bool) (c : Cond) (rn rd rm : Reg) : Word :=
  c.bits ++ 0b00010#5 ++ BitVec.ofBool b ++ 0b00#2 ++ rn ++ rd ++ 0b00001001#8 ++ rm

/-- Single data transfer, immediate form (30_encoding R106). -/
def layoutTransferImm (b l : Bool) (c : Cond) (p u w : Bool) (rn rd : Reg) (off : BitVec 12) : Word :=
  c.bits ++ 0b010#3 ++ BitVec.ofBool p ++ BitVec.ofBool u ++ BitVec.ofBool b ++ BitVec.ofBool w ++ BitVec.ofBool l
    ++ rn ++ rd ++ off

/-- Single data transfer, register form (30_encoding R106). -/
def layoutTransferReg (b l : Bool) (c : Cond) (p u w : Bool) (rn rd : Reg) (amt : BitVec 5) (sh : ShiftType)
    (rm : Reg) : Word :=
  c.bits ++ 0b011#3 ++ BitVec.ofBool p ++ BitVec.ofBool u ++ BitVec.ofBool b ++ BitVec.ofBool w ++ BitVec.ofBool l
    ++ rn ++ rd ++ amt ++ sh.bits ++ 0b0#1 ++ rm

/-- Block data transfer (30_encoding R107). -/
def layoutBlock (l p u : Bool) (c : Cond) (sb w : Bool) (rn : Reg) (list : BitVec 16) : Word :=
  c.bits ++ 0b100#3 ++ BitVec.ofBool p ++ BitVec.ofBool u ++ BitVec.ofBool sb ++ BitVec.ofBool w ++ BitVec.ofBool l
    ++ rn ++ list

/-- Coprocessor data transfer (30_encoding R110). -/
def layoutCpTransfer (l : Bool) (c : Cond) (p u n w : Bool) (rn : Reg) (crd cp : BitVec 4) (off : BitVec 8) : Word :=
  c.bits ++ 0b110#3 ++ BitVec.ofBool p ++ BitVec.ofBool u ++ BitVec.ofBool n ++ BitVec.ofBool w ++ BitVec.ofBool l
    ++ rn ++ crd ++ cp ++ off

/-- Coprocessor register transfer (30_encoding R111). -/
def layoutCpReg (l : Bool) (c : Cond) (op : BitVec 3) (crn : BitVec 4) (rd : Reg) (cp : BitVec 4) (q : BitVec 3)
    (crm : BitVec 4) : Word :=
  c.bits ++ 0b1110#4 ++ op ++ BitVec.ofBool l ++ crn ++ rd ++ cp ++ q ++ 0b1#1 ++ crm

/-- The word of an instruction (30_encoding R102 to R114). -/
def encode : Instr → Word
  | .mul c sb rd rn rs rm => layoutMul 0b0000000#7 c sb rd rn rs rm
  | .mla c sb rd rn rs rm => layoutMul 0b0000001#7 c sb rd rn rs rm
  | .umull c sb rh rl rs rm => layoutMul 0b0000100#7 c sb rh rl rs rm
  | .umlal c sb rh rl rs rm => layoutMul 0b0000101#7 c sb rh rl rs rm
  | .smull c sb rh rl rs rm => layoutMul 0b0000110#7 c sb rh rl rs rm
  | .smlal c sb rh rl rs rm => layoutMul 0b0000111#7 c sb rh rl rs rm
  | .swp c rn rd rm => layoutSwap false c rn rd rm
  | .swpb c rn rd rm => layoutSwap true c rn rd rm
  | .undefinedArm2 c hi mid lo => c.bits ++ 0b0001#4 ++ hi ++ 0b1#1 ++ mid ++ 0b1#1 ++ lo
  | .mrs c spsr rd => c.bits ++ 0b00010#5 ++ BitVec.ofBool spsr ++ 0b001111#6 ++ rd ++ 0b000000000000#12
  | .msrReg c spsr a rm => c.bits ++ 0b00010#5 ++ BitVec.ofBool spsr ++ 0b10#2 ++ a.bits ++ 0b111100000000#12 ++ rm
  | .msrImm c spsr a rot imm => c.bits ++ 0b00110#5 ++ BitVec.ofBool spsr ++ 0b10#2 ++ a.bits ++ 0b1111#4 ++ rot ++ imm
  | .tstpImm c rn rot imm => layoutDpImm 0b1000#4 c true rn 15#4 rot imm
  | .tstpReg c rn amt sh rm => layoutDpReg 0b1000#4 c true rn 15#4 amt sh rm
  | .tstpRegShift c rn rs sh rm => layoutDpRegShift 0b1000#4 c true rn 15#4 rs sh rm
  | .teqpImm c rn rot imm => layoutDpImm 0b1001#4 c true rn 15#4 rot imm
  | .teqpReg c rn amt sh rm => layoutDpReg 0b1001#4 c true rn 15#4 amt sh rm
  | .teqpRegShift c rn rs sh rm => layoutDpRegShift 0b1001#4 c true rn 15#4 rs sh rm
  | .cmppImm c rn rot imm => layoutDpImm 0b1010#4 c true rn 15#4 rot imm
  | .cmppReg c rn amt sh rm => layoutDpReg 0b1010#4 c true rn 15#4 amt sh rm
  | .cmppRegShift c rn rs sh rm => layoutDpRegShift 0b1010#4 c true rn 15#4 rs sh rm
  | .cmnpImm c rn rot imm => layoutDpImm 0b1011#4 c true rn 15#4 rot imm
  | .cmnpReg c rn amt sh rm => layoutDpReg 0b1011#4 c true rn 15#4 amt sh rm
  | .cmnpRegShift c rn rs sh rm => layoutDpRegShift 0b1011#4 c true rn 15#4 rs sh rm
  | .andImm c sb rn rd rot imm => layoutDpImm 0b0000#4 c sb rn rd rot imm
  | .andReg c sb rn rd amt sh rm => layoutDpReg 0b0000#4 c sb rn rd amt sh rm
  | .andRegShift c sb rn rd rs sh rm => layoutDpRegShift 0b0000#4 c sb rn rd rs sh rm
  | .eorImm c sb rn rd rot imm => layoutDpImm 0b0001#4 c sb rn rd rot imm
  | .eorReg c sb rn rd amt sh rm => layoutDpReg 0b0001#4 c sb rn rd amt sh rm
  | .eorRegShift c sb rn rd rs sh rm => layoutDpRegShift 0b0001#4 c sb rn rd rs sh rm
  | .subImm c sb rn rd rot imm => layoutDpImm 0b0010#4 c sb rn rd rot imm
  | .subReg c sb rn rd amt sh rm => layoutDpReg 0b0010#4 c sb rn rd amt sh rm
  | .subRegShift c sb rn rd rs sh rm => layoutDpRegShift 0b0010#4 c sb rn rd rs sh rm
  | .rsbImm c sb rn rd rot imm => layoutDpImm 0b0011#4 c sb rn rd rot imm
  | .rsbReg c sb rn rd amt sh rm => layoutDpReg 0b0011#4 c sb rn rd amt sh rm
  | .rsbRegShift c sb rn rd rs sh rm => layoutDpRegShift 0b0011#4 c sb rn rd rs sh rm
  | .addImm c sb rn rd rot imm => layoutDpImm 0b0100#4 c sb rn rd rot imm
  | .addReg c sb rn rd amt sh rm => layoutDpReg 0b0100#4 c sb rn rd amt sh rm
  | .addRegShift c sb rn rd rs sh rm => layoutDpRegShift 0b0100#4 c sb rn rd rs sh rm
  | .adcImm c sb rn rd rot imm => layoutDpImm 0b0101#4 c sb rn rd rot imm
  | .adcReg c sb rn rd amt sh rm => layoutDpReg 0b0101#4 c sb rn rd amt sh rm
  | .adcRegShift c sb rn rd rs sh rm => layoutDpRegShift 0b0101#4 c sb rn rd rs sh rm
  | .sbcImm c sb rn rd rot imm => layoutDpImm 0b0110#4 c sb rn rd rot imm
  | .sbcReg c sb rn rd amt sh rm => layoutDpReg 0b0110#4 c sb rn rd amt sh rm
  | .sbcRegShift c sb rn rd rs sh rm => layoutDpRegShift 0b0110#4 c sb rn rd rs sh rm
  | .rscImm c sb rn rd rot imm => layoutDpImm 0b0111#4 c sb rn rd rot imm
  | .rscReg c sb rn rd amt sh rm => layoutDpReg 0b0111#4 c sb rn rd amt sh rm
  | .rscRegShift c sb rn rd rs sh rm => layoutDpRegShift 0b0111#4 c sb rn rd rs sh rm
  | .tstImm c rn rd rot imm => layoutDpImm 0b1000#4 c true rn rd rot imm
  | .tstReg c rn rd amt sh rm => layoutDpReg 0b1000#4 c true rn rd amt sh rm
  | .tstRegShift c rn rd rs sh rm => layoutDpRegShift 0b1000#4 c true rn rd rs sh rm
  | .teqImm c rn rd rot imm => layoutDpImm 0b1001#4 c true rn rd rot imm
  | .teqReg c rn rd amt sh rm => layoutDpReg 0b1001#4 c true rn rd amt sh rm
  | .teqRegShift c rn rd rs sh rm => layoutDpRegShift 0b1001#4 c true rn rd rs sh rm
  | .cmpImm c rn rd rot imm => layoutDpImm 0b1010#4 c true rn rd rot imm
  | .cmpReg c rn rd amt sh rm => layoutDpReg 0b1010#4 c true rn rd amt sh rm
  | .cmpRegShift c rn rd rs sh rm => layoutDpRegShift 0b1010#4 c true rn rd rs sh rm
  | .cmnImm c rn rd rot imm => layoutDpImm 0b1011#4 c true rn rd rot imm
  | .cmnReg c rn rd amt sh rm => layoutDpReg 0b1011#4 c true rn rd amt sh rm
  | .cmnRegShift c rn rd rs sh rm => layoutDpRegShift 0b1011#4 c true rn rd rs sh rm
  | .orrImm c sb rn rd rot imm => layoutDpImm 0b1100#4 c sb rn rd rot imm
  | .orrReg c sb rn rd amt sh rm => layoutDpReg 0b1100#4 c sb rn rd amt sh rm
  | .orrRegShift c sb rn rd rs sh rm => layoutDpRegShift 0b1100#4 c sb rn rd rs sh rm
  | .movImm c sb rn rd rot imm => layoutDpImm 0b1101#4 c sb rn rd rot imm
  | .movReg c sb rn rd amt sh rm => layoutDpReg 0b1101#4 c sb rn rd amt sh rm
  | .movRegShift c sb rn rd rs sh rm => layoutDpRegShift 0b1101#4 c sb rn rd rs sh rm
  | .bicImm c sb rn rd rot imm => layoutDpImm 0b1110#4 c sb rn rd rot imm
  | .bicReg c sb rn rd amt sh rm => layoutDpReg 0b1110#4 c sb rn rd amt sh rm
  | .bicRegShift c sb rn rd rs sh rm => layoutDpRegShift 0b1110#4 c sb rn rd rs sh rm
  | .mvnImm c sb rn rd rot imm => layoutDpImm 0b1111#4 c sb rn rd rot imm
  | .mvnReg c sb rn rd amt sh rm => layoutDpReg 0b1111#4 c sb rn rd amt sh rm
  | .mvnRegShift c sb rn rd rs sh rm => layoutDpRegShift 0b1111#4 c sb rn rd rs sh rm
  | .ldrtImm c u rn rd off => layoutTransferImm false true c false u true rn rd off
  | .ldrtReg c u rn rd amt sh rm => layoutTransferReg false true c false u true rn rd amt sh rm
  | .strtImm c u rn rd off => layoutTransferImm false false c false u true rn rd off
  | .strtReg c u rn rd amt sh rm => layoutTransferReg false false c false u true rn rd amt sh rm
  | .ldrbtImm c u rn rd off => layoutTransferImm true true c false u true rn rd off
  | .ldrbtReg c u rn rd amt sh rm => layoutTransferReg true true c false u true rn rd amt sh rm
  | .strbtImm c u rn rd off => layoutTransferImm true false c false u true rn rd off
  | .strbtReg c u rn rd amt sh rm => layoutTransferReg true false c false u true rn rd amt sh rm
  | .ldrImm c p u w rn rd off => layoutTransferImm false true c p u w rn rd off
  | .ldrReg c p u w rn rd amt sh rm => layoutTransferReg false true c p u w rn rd amt sh rm
  | .strImm c p u w rn rd off => layoutTransferImm false false c p u w rn rd off
  | .strReg c p u w rn rd amt sh rm => layoutTransferReg false false c p u w rn rd amt sh rm
  | .ldrbImm c p u w rn rd off => layoutTransferImm true true c p u w rn rd off
  | .ldrbReg c p u w rn rd amt sh rm => layoutTransferReg true true c p u w rn rd amt sh rm
  | .strbImm c p u w rn rd off => layoutTransferImm true false c p u w rn rd off
  | .strbReg c p u w rn rd amt sh rm => layoutTransferReg true false c p u w rn rd amt sh rm
  | .undefined c hi lo => c.bits ++ 0b011#3 ++ hi ++ 0b1#1 ++ lo
  | .ldmia c sb w rn list => layoutBlock true false true c sb w rn list
  | .ldmib c sb w rn list => layoutBlock true true true c sb w rn list
  | .ldmda c sb w rn list => layoutBlock true false false c sb w rn list
  | .ldmdb c sb w rn list => layoutBlock true true false c sb w rn list
  | .stmia c sb w rn list => layoutBlock false false true c sb w rn list
  | .stmib c sb w rn list => layoutBlock false true true c sb w rn list
  | .stmda c sb w rn list => layoutBlock false false false c sb w rn list
  | .stmdb c sb w rn list => layoutBlock false true false c sb w rn list
  | .b c off => c.bits ++ 0b1010#4 ++ off
  | .bl c off => c.bits ++ 0b1011#4 ++ off
  | .ldc c p u n w rn crd cp off => layoutCpTransfer true c p u n w rn crd cp off
  | .stc c p u n w rn crd cp off => layoutCpTransfer false c p u n w rn crd cp off
  | .cdp c op crn crd cp q crm => c.bits ++ 0b1110#4 ++ op ++ crn ++ crd ++ cp ++ q ++ 0b0#1 ++ crm
  | .mrc c op crn rd cp q crm => layoutCpReg true c op crn rd cp q crm
  | .mcr c op crn rd cp q crm => layoutCpReg false c op crn rd cp q crm
  | .swi c comment => c.bits ++ 0b1111#4 ++ comment

end Sys2Proof
end

