-- ==== Sys2Proof/Machine/State.lean ====
section
/-!
DEFINITION. What the machine holds (10_state R44), as plain data; how a step stops; and the machine right after
reset (10_state R60). INVENTORY.md, '## State', lists every field with the rule that names it.
-/

namespace Sys2Proof.Machine

/-- The ten defined modes (10_state R35). The modes of ARM 2 and ARM 3 are the four with a 26-bit PC. -/
inductive Mode where
  | usr26
  | fiq26
  | irq26
  | svc26
  | usr32
  | fiq32
  | irq32
  | svc32
  | abt32
  | und32
deriving DecidableEq, Repr

/-- The privileged modes by their own registers: the 26-bit and the 32-bit form of a mode share one bank
(10_state R22, R38). -/
inductive ExcBank where
  | fiq
  | irq
  | svc
  | abt
  | und
deriving DecidableEq, Repr

/-- A physical register, R15 apart (10_state R22). -/
inductive PReg where
  /-- R0 to R14 as user mode sees them. -/
  | usr (i : Fin 15)
  /-- R8_FIQ to R14_FIQ. -/
  | fiq (i : Fin 7)
  /-- R13_IRQ and R14_IRQ. -/
  | irq (i : Fin 2)
  /-- R13_SVC and R14_SVC. -/
  | svc (i : Fin 2)
  /-- R13_ABT and R14_ABT. -/
  | abt (i : Fin 2)
  /-- R13_UND and R14_UND. -/
  | und (i : Fin 2)
deriving DecidableEq, Repr

/-- The physical registers (10_state R22, R44). -/
structure Regs where
  usr : Vector Word 15
  fiq : Vector Word 7
  irq : Vector Word 2
  svc : Vector Word 2
  abt : Vector Word 2
  und : Vector Word 2
deriving DecidableEq, Repr

/-- The current PSR (10_state R33 to R36): one copy of the fields, seen through R15 and through the CPSR. -/
structure Psr where
  n : Bool
  z : Bool
  c : Bool
  v : Bool
  i : Bool
  f : Bool
  mode : Mode
deriving DecidableEq, Repr

/-- A saved PSR (10_state R34, R38): its mode field is five bits, since MSR can store any five there. -/
structure SavedPsr where
  n : Bool
  z : Bool
  c : Bool
  v : Bool
  i : Bool
  f : Bool
  m : BitVec 5
deriving DecidableEq, Repr

/-- The five saved PSRs (10_state R34, R38). -/
structure Spsrs where
  fiq : SavedPsr
  irq : SavedPsr
  svc : SavedPsr
  abt : SavedPsr
  und : SavedPsr
deriving DecidableEq, Repr

/-- What the environment supplies before one instruction (60_exceptions R364). -/
structure Inputs where
  reset : Bool
  fiq : Bool
  irq : Bool
deriving DecidableEq, Repr

/-- The exceptions entered by 60_exceptions R355; the eighth event of R350, reset, is `resetEvent`. -/
inductive Exc where
  | undefinedInstruction
  | softwareInterrupt
  | prefetchAbort
  | dataAbort
  | addressException
  | irq
  | fiq
deriving DecidableEq, Repr

/-- Why the machine stops with a fault. -/
inductive Fault where
  /-- A write of a mode number outside the table of 10_state R35 (R37: "stuck"). Raised by MSR to the CPSR and by an
  exception return. Safe: real parts go on in a state the spec does not describe. -/
  | undefinedMode
  /-- An access or a fetch at an address that holds no memory (20_memory R81). Raised by fetch and by every load and
  store. Safe. -/
  | unbackedAddress
  /-- The run is over: `pc` is the end address of the configuration (92_eei_decisions D25; log 21). Raised by the step
  before the fetch. Safe. -/
  | endOfRun
deriving DecidableEq, Repr

/-- Why the machine refuses to step: the reasons of the spec's `REFUSE` (00_scope R10, 93_implementation_defined).
Every one is safe: real parts go on in some way the spec does not give. -/
inductive Refusal where
  /-- An instruction whose arm is not written. Raised by no meaning. -/
  | notModelled (mnemonic : String)
  /-- `REFUSE(unallocated encoding)` (30_encoding R127): a word whose condition passes and that the decoder rejects. -/
  | unallocated (r : Reject)
  /-- `REFUSE(R15 with register-specified shift)` (41_data_processing R157). -/
  | r15WithRegisterShift
  /-- `REFUSE(P form in 32-bit mode)` (41_data_processing R187). -/
  | pFormIn32BitMode
  /-- `REFUSE(S with Rd = R15 in 32-bit user mode)` (41_data_processing R189). -/
  | statusRestoreInUser32
  /-- `REFUSE(S with R15 in 32-bit user mode)`, the block load (45_block_data_transfer R274). -/
  | blockRestoreInUser32
  /-- `REFUSE(pc out of 26-bit range)` (41_data_processing R189, 45_block_data_transfer R274, 49_status R332). -/
  | pcOutOf26BitRange
  /-- `REFUSE(MUL Rd = Rm)` (43_multiply R212). -/
  | mulRdEqRm
  /-- `REFUSE(MUL with R15)` (43_multiply R212). -/
  | mulWithR15
  /-- `REFUSE(long multiply with R15)` (43_multiply R222). -/
  | longMulWithR15
  /-- `REFUSE(long multiply registers not distinct)` (43_multiply R222). -/
  | longMulNotDistinct
  /-- `REFUSE(unaligned access)` (20_memory R73). -/
  | unalignedAccess
  /-- `REFUSE(PC as offset register)` (44_single_data_transfer R231). -/
  | pcAsOffset
  /-- `REFUSE(R15 base with write back)` (44_single_data_transfer R245, 47_coprocessor R303). -/
  | r15BaseWriteBack
  /-- `REFUSE(Rd = Rn with write back)` (44_single_data_transfer R245). -/
  | rdEqRnWriteBack
  /-- `REFUSE(Rm = Rn post-indexed)` (44_single_data_transfer R245). -/
  | rmEqRnPostIndexed
  /-- `REFUSE(store of R15)` (44_single_data_transfer R246, 45_block_data_transfer R277). -/
  | storeOfR15
  /-- `REFUSE(byte load to R15)` (44_single_data_transfer R247). -/
  | byteLoadToR15
  /-- `REFUSE(PC as base)` (45_block_data_transfer R278). -/
  | pcAsBase
  /-- `REFUSE(empty register list)` (45_block_data_transfer R278). -/
  | emptyList
  /-- `REFUSE(base in list with write back)` (45_block_data_transfer R276). -/
  | baseInListWriteBack
  /-- `REFUSE(user bank transfer with write back)` (45_block_data_transfer R275). -/
  | userBankWriteBack
  /-- `REFUSE(SWP with R15)` (48_swap R320). -/
  | swpWithR15
  /-- `REFUSE(MCR with Rd = R15)` (47_coprocessor R305). -/
  | mcrWithR15
  /-- `REFUSE(MRS with Rd = R15)` (49_status R331). -/
  | mrsRdR15
  /-- `REFUSE(MSR with Rm = R15)` (49_status R332). -/
  | msrRmR15
  /-- `REFUSE(SPSR access in user mode)` (49_status R330). -/
  | spsrInUserMode
  /-- `REFUSE(exception from a 32-bit mode in the 26-bit configuration)` (60_exceptions R355). -/
  | exceptionFrom32BitMode
  /-- `REFUSE(banked register access after mode change)` (70_reset R412, R413). -/
  | bankedRegisterAfterModeChange
  /-- `REFUSE(fetch of modified code)` (20_memory R90). -/
  | fetchOfModifiedCode
deriving DecidableEq, Repr

/-- How an operation inside an instruction ends the instruction: an exception to take, a fault or a refusal. -/
inductive Stop where
  | exc (e : Exc)
  | fault (f : Fault)
  | refuse (r : Refusal)
deriving DecidableEq, Repr

/-- The machine (10_state R44): what the spec gives it, the inputs and the hazard bit of its step, the configuration
it never changes, and the counter of free values. -/
structure State where
  /-- The configuration (00_scope R6; log 1). -/
  cfg : Cfg
  /-- R0 to R14 of every bank (10_state R22). -/
  regs : Regs
  /-- The address of the instruction being executed (10_state R27). -/
  pc : Word
  /-- The current PSR (10_state R33, R34). -/
  psr : Psr
  /-- The saved PSRs (10_state R38). -/
  spsrs : Spsrs
  /-- Memory, in canonical form (20_memory R70; log 5). -/
  mem : List Host.Cell
  /-- The addresses of the words the run has stored to, rising (20_memory R90; log 15). -/
  stored : List Nat
  /-- The last instruction changed the mode by a P form, or moved the user bank in a privileged mode
  (70_reset R412, R413; log 16). -/
  hazard : Bool
  /-- The inputs at the coming instruction boundaries; none asserted when the list is empty (60_exceptions R364; log 9). -/
  inputs : List Inputs
  /-- The coprocessors 0 to 15 (47_coprocessor R300; log 10). -/
  cps : Vector (Option Coproc) 16
  /-- How many free values have been taken (00_scope R10; log 7): the model's own field. -/
  draws : Nat
deriving DecidableEq, Repr

/-- A register value at reset: the spec gives none (log 2). -/
def resetWord : Word := 0#32

/-- Every general register at reset (log 2). -/
def Regs.atReset : Regs where
  usr := .replicate 15 resetWord
  fiq := .replicate 7 resetWord
  irq := .replicate 2 resetWord
  svc := .replicate 2 resetWord
  abt := .replicate 2 resetWord
  und := .replicate 2 resetWord

/-- A saved PSR at reset (log 3). -/
def SavedPsr.atReset : SavedPsr where
  n := false
  z := false
  c := false
  v := false
  i := false
  f := false
  m := 0#5

/-- The machine of configuration `g` right after reset (10_state R60): SVC mode, both interrupts disabled, `pc` at the
reset vector 0; flags, registers and SPSRs at the values of logs 2 to 4. -/
def State.powerOn (g : Cfg) : State where
  cfg := g
  regs := Regs.atReset
  pc := 0#32
  psr := { n := false, z := false, c := false, v := false, i := true, f := true,
           mode := if g.entry32 then .svc32 else .svc26 }
  spsrs := { fiq := .atReset, irq := .atReset, svc := .atReset, abt := .atReset, und := .atReset }
  mem := []
  stored := []
  hazard := false
  inputs := []
  cps := .replicate 16 none
  draws := 0

/-- The configuration of `State.reset`: an ARM7DM with the 32-bit configuration, every address backed, nothing
aborted, no end address (log 1). -/
def defaultCfg : Cfg where
  variant := .arm7dm
  prog32 := true
  holes := []
  aborts := []
  endAddr := none

/-- The machine right after reset (10_state R60). -/
def State.reset : State := .powerOn defaultCfg

end Sys2Proof.Machine
end

