-- ==== Sys2Proof/Machine/Flags.lean ====
section
/-!
DEFINITION. Modes, the condition test (40_condition_codes R140), the adder (41_data_processing R160), the results and
flags of the operations (R164 to R181) and the whole-PSR writes, as functions of plain values.
-/

namespace Sys2Proof

/-- MSR writes the flag field (49_status R332: a[3]). -/
def PsrField.flags : PsrField → Bool
  | .ctl => false
  | .flg | .all => true

/-- MSR writes the control field (49_status R332: a[0]). -/
def PsrField.control : PsrField → Bool
  | .flg => false
  | .ctl | .all => true

end Sys2Proof

namespace Sys2Proof.Machine

/-- The number of a mode (10_state R35). -/
def Mode.bits : Mode → BitVec 5
  | .usr26 => 0b00000#5
  | .fiq26 => 0b00001#5
  | .irq26 => 0b00010#5
  | .svc26 => 0b00011#5
  | .usr32 => 0b10000#5
  | .fiq32 => 0b10001#5
  | .irq32 => 0b10010#5
  | .svc32 => 0b10011#5
  | .abt32 => 0b10111#5
  | .und32 => 0b11011#5

/-- The mode with a number, if the table of 10_state R35 has it. -/
def Mode.ofBits (b : BitVec 5) : Option Mode :=
  match b with
  | 0b00000#5 => some .usr26
  | 0b00001#5 => some .fiq26
  | 0b00010#5 => some .irq26
  | 0b00011#5 => some .svc26
  | 0b10000#5 => some .usr32
  | 0b10001#5 => some .fiq32
  | 0b10010#5 => some .irq32
  | 0b10011#5 => some .svc32
  | 0b10111#5 => some .abt32
  | 0b11011#5 => some .und32
  | _ => none

/-- The mode that the two mode bits of R15 name in a 26-bit PC mode (10_state R26). -/
def Mode.ofR15 (b : BitVec 2) : Mode :=
  match b with
  | 0b00#2 => .usr26
  | 0b01#2 => .fiq26
  | 0b10#2 => .irq26
  | _ => .svc26

/-- `Mode26`: M[4] = 0 (10_state R36). -/
def Mode.is26 (m : Mode) : Bool := !m.bits.getLsbD 4

/-- `Privileged`: M[3:0] is not 0000 (10_state R36). -/
def Mode.privileged (m : Mode) : Bool := m.bits.extractLsb' 0 4 != 0#4

/-- The bank of a privileged mode (10_state R22, R38). -/
def Mode.bank : Mode → Option ExcBank
  | .usr26 | .usr32 => none
  | .fiq26 | .fiq32 => some .fiq
  | .irq26 | .irq32 => some .irq
  | .svc26 | .svc32 => some .svc
  | .abt32 => some .abt
  | .und32 => some .und

/-- `CondPassed` (40_condition_codes R140, with LS as corrected by 90_conflicts C1). -/
def condPassed (c : Cond) (p : Psr) : Bool :=
  match c with
  | .eq => p.z
  | .ne => !p.z
  | .cs => p.c
  | .cc => !p.c
  | .mi => p.n
  | .pl => !p.n
  | .vs => p.v
  | .vc => !p.v
  | .hi => p.c && !p.z
  | .ls => !p.c || p.z
  | .ge => p.n == p.v
  | .lt => p.n != p.v
  | .gt => p.n == p.v && !p.z
  | .le => p.n != p.v || p.z
  | .al => true
  | .nv => false

/-- A value with the carry and overflow it leaves (41_data_processing R161). -/
structure AluResult where
  value : Word
  c : Bool
  v : Bool
deriving DecidableEq, Repr

/-- `AddWithCarry` (41_data_processing R160): the exact sums decide carry and overflow. -/
def addWithCarry (a b : Word) (cin : Bool) : AluResult :=
  let usum : Nat := a.toNat + b.toNat + cin.toNat
  let ssum : Int := a.toInt + b.toInt + cin.toNat
  let result : Word := BitVec.ofNat 32 usum
  { value := result, c := decide (2 ^ 32 ≤ usum), v := decide (ssum ≠ result.toInt) }

/-- The operations that write a register (41_data_processing R150); the tests compute with `and`, `eor`, `sub`, `add`. -/
inductive AluOp where
  | and
  | eor
  | sub
  | rsb
  | add
  | adc
  | sbc
  | rsc
  | orr
  | mov
  | bic
  | mvn
deriving DecidableEq, Repr

/-- The operation's own line (41_data_processing R166 to R181): `a` is Rn, `b` is Op2, `sc` the shifter carry. A
logical operation answers `sc` and the V it found, an arithmetic one the carry and overflow of the adder (R161). -/
def alu (op : AluOp) (a b : Word) (sc : Bool) (p : Psr) : AluResult :=
  match op with
  | .and => ⟨a &&& b, sc, p.v⟩
  | .eor => ⟨a ^^^ b, sc, p.v⟩
  | .sub => addWithCarry a (~~~b) true
  | .rsb => addWithCarry b (~~~a) true
  | .add => addWithCarry a b false
  | .adc => addWithCarry a b p.c
  | .sbc => addWithCarry a (~~~b) p.c
  | .rsc => addWithCarry b (~~~a) p.c
  | .orr => ⟨a ||| b, sc, p.v⟩
  | .mov => ⟨b, sc, p.v⟩
  | .bic => ⟨a &&& ~~~b, sc, p.v⟩
  | .mvn => ⟨~~~b, sc, p.v⟩

/-- Whether the operation reads Rn: MOV and MVN ignore it (41_data_processing R179, R181). -/
def AluOp.readsRn : AluOp → Bool
  | .mov | .mvn => false
  | .and | .eor | .sub | .rsb | .add | .adc | .sbc | .rsc | .orr | .bic => true

/-- N and Z on a word, C and V as given: the flags of 41_data_processing R164, R165 and 43_multiply R213. -/
def Psr.withFlags (p : Psr) (value : Word) (c v : Bool) : Psr :=
  { p with n := value.msb, z := value == 0#32, c := c, v := v }

/-- N, Z, C, V from bits 31..28 of a word (41_data_processing R186, 47_coprocessor R308, 49_status R332). -/
def Psr.withTopFlags (p : Psr) (w : Word) : Psr :=
  { p with n := w.getLsbD 31, z := w.getLsbD 30, c := w.getLsbD 29, v := w.getLsbD 28 }

/-- The PSR of a 26-bit mode written from a word (41_data_processing R186, R188; 45_block_data_transfer R274): the
flags, and in a privileged mode I, F and the mode too. -/
def Psr.writeR15 (p : Psr) (w : Word) : Psr :=
  if p.mode.privileged then
    { p.withTopFlags w with i := w.getLsbD 27, f := w.getLsbD 26, mode := Mode.ofR15 (field w 0 2) }
  else p.withTopFlags w

/-- What exception entry saves of the current PSR (60_exceptions R355). -/
def Psr.save (p : Psr) : SavedPsr :=
  { n := p.n, z := p.z, c := p.c, v := p.v, i := p.i, f := p.f, m := p.mode.bits }

/-- The current PSR restored from a saved one whose mode number names `m` (41_data_processing R189). -/
def SavedPsr.restore (q : SavedPsr) (m : Mode) : Psr :=
  { n := q.n, z := q.z, c := q.c, v := q.v, i := q.i, f := q.f, mode := m }

/-- A saved PSR in the layout of 10_state R34, the bits that are not state as the word `x` has them. -/
def SavedPsr.word (q : SavedPsr) (x : Word) : Word :=
  BitVec.ofBool q.n ++ BitVec.ofBool q.z ++ BitVec.ofBool q.c ++ BitVec.ofBool q.v ++ field x 8 20
    ++ BitVec.ofBool q.i ++ BitVec.ofBool q.f ++ field x 5 1 ++ q.m

/-- A saved PSR read off a word in the layout of 10_state R34. -/
def SavedPsr.ofWord (w : Word) : SavedPsr :=
  { n := w.getLsbD 31, z := w.getLsbD 30, c := w.getLsbD 29, v := w.getLsbD 28,
    i := w.getLsbD 7, f := w.getLsbD 6, m := field w 0 5 }

/-- A saved PSR with the fields `a` selects taken from `w` (49_status R332). -/
def SavedPsr.write (q : SavedPsr) (a : PsrField) (w : Word) : SavedPsr :=
  let r := SavedPsr.ofWord w
  { n := if a.flags then r.n else q.n, z := if a.flags then r.z else q.z,
    c := if a.flags then r.c else q.c, v := if a.flags then r.v else q.v,
    i := if a.control then r.i else q.i, f := if a.control then r.f else q.f,
    m := if a.control then r.m else q.m }

end Sys2Proof.Machine
end

