-- ==== Sys2Proof/Machine/Ops.lean ====
section
/-!
DEFINITION. The named operations over memory and registers (10_state, 20_memory), taking an exception (60_exceptions
R355), returning from one (R370), and the frame every instruction stands in (40_condition_codes R141, 70_reset R412).
-/

namespace Sys2Proof

/-- Whether an access of this size may stand at the address (20_memory R73). -/
def Size.fits (z : Size) (addr : Word) : Bool :=
  match z with
  | .byte => true
  | .word => Word.aligned addr

/-- The bytes a store of this size writes, lowest address first (20_memory R71, R75, R78). -/
def Size.bytes (z : Size) (v : Word) : List Byte :=
  match z with
  | .byte => [field v 0 8]
  | .word => bytesOfWord v

/-- How many bytes an access moves (20_memory R70). -/
def Size.count : Size → Nat
  | .byte => 1
  | .word => 4

end Sys2Proof

namespace Sys2Proof.Machine

/-- How an instruction answers. -/
abbrev Answer := Host.Outcome State Fault Refusal

/-! ## Memory as data -/

/-- What a byte reads as that is not listed (log 5). -/
def unlistedByte : Byte := 0#8

/-- The byte at an address (20_memory R74). -/
def Memory.read : List Host.Cell → Nat → Byte
  | [], _ => unlistedByte
  | (b, v) :: rest, a => if a = b then v else Memory.read rest a

/-- Memory with one byte changed (20_memory R75), in canonical form if it was. -/
def Memory.write : List Host.Cell → Nat → Byte → List Host.Cell
  | [], a, v => if v = unlistedByte then [] else [(a, v)]
  | (b, w) :: rest, a, v =>
    if a < b then (if v = unlistedByte then (b, w) :: rest else (a, v) :: (b, w) :: rest)
    else if a = b then (if v = unlistedByte then rest else (a, v) :: rest)
    else (b, w) :: Memory.write rest a v

/-- Addresses strictly rise from `lo` on, and no entry equals what an unlisted address reads as. -/
def Memory.risesFrom (lo : Nat) : List Host.Cell → Bool
  | [] => true
  | (a, v) :: rest => decide (lo ≤ a) && v != unlistedByte && Memory.risesFrom (a + 1) rest

/-- The canonical form of memory. -/
def Memory.wf (m : List Host.Cell) : Bool := Memory.risesFrom 0 m

/-- The bytes of a list, one after another, written from an address up. -/
def Memory.writeBytes (m : List Host.Cell) (a : Nat) : List Byte → List Host.Cell
  | [] => m
  | v :: rest => Memory.writeBytes (Memory.write m a v) (a + 1) rest

/-- The word at a word address: little-endian (20_memory R71). -/
def Memory.readWord (m : List Host.Cell) (a : Nat) : Word :=
  wordOfBytes (Memory.read m a) (Memory.read m (a + 1)) (Memory.read m (a + 2)) (Memory.read m (a + 3))

/-- A rising list of addresses with one added. -/
def insertAddr (a : Nat) : List Nat → List Nat
  | [] => [a]
  | b :: rest => if a < b then a :: b :: rest else if a = b then b :: rest else b :: insertAddr a rest

/-! ## Mode, status and registers -/

/-- `Mode26` (10_state R36). -/
def State.mode26 (s : State) : Bool := s.psr.mode.is26

/-- `Privileged` (10_state R36). -/
def State.privileged (s : State) : Bool := s.psr.mode.privileged

/-- The physical register that a mode sees as Ri, `i` in 0..14 (10_state R24); R15 is none of them. -/
def Mode.preg (m : Mode) (r : Reg) : Option PReg :=
  if r = 15#4 then none
  else
    let user : PReg := .usr (Fin.ofNat 15 r.toNat)
    some (match m.bank with
      | none => user
      | some .fiq => if 8 ≤ r.toNat then .fiq (Fin.ofNat 7 (r.toNat - 8)) else user
      | some .irq => if 13 ≤ r.toNat then .irq (Fin.ofNat 2 (r.toNat - 13)) else user
      | some .svc => if 13 ≤ r.toNat then .svc (Fin.ofNat 2 (r.toNat - 13)) else user
      | some .abt => if 13 ≤ r.toNat then .abt (Fin.ofNat 2 (r.toNat - 13)) else user
      | some .und => if 13 ≤ r.toNat then .und (Fin.ofNat 2 (r.toNat - 13)) else user)

/-- The content of a physical register. -/
def Regs.read (x : Regs) : PReg → Word
  | .usr i => x.usr[i]
  | .fiq i => x.fiq[i]
  | .irq i => x.irq[i]
  | .svc i => x.svc[i]
  | .abt i => x.abt[i]
  | .und i => x.und[i]

/-- The registers with one physical register changed. -/
def Regs.write (x : Regs) (p : PReg) (v : Word) : Regs :=
  match p with
  | .usr i => { x with usr := x.usr.set i v }
  | .fiq i => { x with fiq := x.fiq.set i v }
  | .irq i => { x with irq := x.irq.set i v }
  | .svc i => { x with svc := x.svc.set i v }
  | .abt i => { x with abt := x.abt.set i v }
  | .und i => { x with und := x.und.set i v }

/-- `PCread`: what an instruction reads from R15, the PSR positions 0 in a 26-bit mode (10_state R28). -/
def State.pcRead (s : State) : Word :=
  if s.mode26 then (s.pc + 8#32) &&& 0x03FFFFFC#32 else s.pc + 8#32

/-- R15 of a 26-bit mode with the PC field of address `a`: N, Z, C, V, I, F, a[25:2], M[1:0] (10_state R26). -/
def State.r15With (s : State) (a : Word) : Word :=
  BitVec.ofBool s.psr.n ++ BitVec.ofBool s.psr.z ++ BitVec.ofBool s.psr.c ++ BitVec.ofBool s.psr.v
    ++ BitVec.ofBool s.psr.i ++ BitVec.ofBool s.psr.f ++ field a 2 24 ++ s.psr.mode.bits.extractLsb' 0 2

/-- `R15full` (10_state R28). -/
def State.r15Full (s : State) : Word := s.r15With (s.pc + 8#32)

/-- `x[i]`, and `PCread` for R15 (10_state R24, R28). -/
def State.reg (s : State) (r : Reg) : Word :=
  match s.psr.mode.preg r with
  | some p => s.regs.read p
  | none => s.pcRead

/-- `x[i] <- v` for `i` in 0..14 (10_state R24). R15 is not written so: every rule that writes it says how
(00_scope R9), through `writePc`. -/
def State.setReg (s : State) (r : Reg) (v : Word) : State :=
  match s.psr.mode.preg r with
  | some p => { s with regs := s.regs.write p v }
  | none => s

/-- `xu[i]`, `i` in 0..14, whatever the mode (10_state R25). -/
def State.userReg (s : State) (r : Reg) : Word :=
  match Mode.usr32.preg r with
  | some p => s.regs.read p
  | none => s.pcRead

/-- `xu[i] <- v`, `i` in 0..14 (10_state R25). -/
def State.setUserReg (s : State) (r : Reg) (v : Word) : State :=
  match Mode.usr32.preg r with
  | some p => { s with regs := s.regs.write p v }
  | none => s

/-- The saved PSR of a bank. -/
def Spsrs.read (x : Spsrs) : ExcBank → SavedPsr
  | .fiq => x.fiq
  | .irq => x.irq
  | .svc => x.svc
  | .abt => x.abt
  | .und => x.und

/-- The saved PSRs with one changed. -/
def Spsrs.write (x : Spsrs) (b : ExcBank) (q : SavedPsr) : Spsrs :=
  match b with
  | .fiq => { x with fiq := q }
  | .irq => { x with irq := q }
  | .svc => { x with svc := q }
  | .abt => { x with abt := q }
  | .und => { x with und := q }

/-! ## The program counter -/

/-- The successor of `pc`, in the mode the machine is in (10_state R32). -/
def State.successor (s : State) : Word :=
  if s.mode26 then (s.pc + 4#32) &&& 0x03FFFFFF#32 else s.pc + 4#32

/-- On to the next instruction (10_state R29, R32). -/
def State.advance (s : State) : State := { s with pc := s.successor }

/-- Where a write of R15 goes: bits 25..2 in a 26-bit mode, all but the low two in a 32-bit mode
(10_state R31; 41_data_processing R188, R189; 44_single_data_transfer R247). -/
def State.pcTarget (s : State) (v : Word) : Word :=
  if s.mode26 then v &&& 0x03FFFFFC#32 else v &&& 0xFFFFFFFC#32

/-- `pc` written with a value, the PSR unchanged. -/
def State.writePc (s : State) (v : Word) : State := { s with pc := s.pcTarget v }

/-! ## Memory accesses -/

/-- The range check, the abort check and the backing check of one access, in this order (20_memory R74, R82, R77, R81);
a fetch has no range check (60_exceptions R362). The answer is what stops the access, if anything does. -/
def State.access (s : State) (size : Size) (kind : AccessKind) (privileged : Bool) (addr : Word) : Option Stop :=
  if kind ≠ .fetch ∧ 2 ^ s.cfg.variant.addrBits ≤ addr.toNat then some (.exc .addressException)
  else if s.cfg.aborts.any (fun r => r.hits addr.toNat size kind privileged) then
    some (.exc (if kind = .fetch then .prefetchAbort else .dataAbort))
  else if s.cfg.holes.any (fun r => r.holds addr.toNat) then some (.fault .unbackedAddress)
  else none

/-- The value at an address, zero-extended to a word (20_memory R74, R78). -/
def State.value (s : State) (z : Size) (addr : Word) : Word :=
  match z with
  | .byte => (Memory.read s.mem addr.toNat).setWidth 32
  | .word => Memory.readWord s.mem addr.toNat

/-- `MemRead`, or with `asUser` `MemReadT` (20_memory R74, R76). -/
def State.load (s : State) (z : Size) (asUser : Bool) (addr : Word) : Except Stop Word :=
  match s.access z .read (s.privileged && !asUser) addr with
  | some e => .error e
  | none => .ok (s.value z addr)

/-- The state after an unhindered store: the bytes written, and the word remembered (20_memory R75, R90). -/
def State.put (s : State) (z : Size) (addr v : Word) : State :=
  { s with mem := Memory.writeBytes s.mem addr.toNat (z.bytes v),
           stored := insertAddr (addr.toNat - addr.toNat % 4) s.stored }

/-- `MemWrite`, or with `asUser` `MemWriteT` (20_memory R75, R76). -/
def State.store (s : State) (z : Size) (asUser : Bool) (addr v : Word) : Except Stop State :=
  match s.access z .write (s.privileged && !asUser) addr with
  | some e => .error e
  | none => .ok (s.put z addr v)

/-- The fetch of the instruction at `pc` (20_memory R72): aborted, unbacked, or of a word the run has stored to
(R90), in this order. -/
def State.fetch (s : State) : Except Stop Word :=
  match s.access .word .fetch s.privileged s.pc with
  | some e => .error e
  | none =>
    if s.pc.toNat ∈ s.stored then .error (.refuse .fetchOfModifiedCode)
    else .ok (Memory.readWord s.mem s.pc.toNat)

/-- The words at a list of addresses, read in order; the first access that is stopped stops them all
(45_block_data_transfer R265, R279). -/
def State.loadAll (s : State) : List Word → Except Stop (List Word)
  | [] => .ok []
  | a :: rest =>
    match s.load .word false a with
    | .error e => .error e
    | .ok v =>
      match s.loadAll rest with
      | .error e => .error e
      | .ok vs => .ok (v :: vs)

/-- Words stored at addresses, in order, and what stops them, if anything: the words before it stay stored
(45_block_data_transfer R279, 47_coprocessor R304). -/
def State.storeAll (s : State) : List (Word × Word) → State × Option Stop
  | [] => (s, none)
  | (a, v) :: rest =>
    match s.store .word false a v with
    | .error e => (s, some e)
    | .ok t => t.storeAll rest

/-! ## Free values -/

/-- One bit of the next free word (00_scope R10, `DRAW(1)`; log 7). -/
def State.freeBit (s : State) (i : Nat) : Bool := (Config.freeWord s.draws).getLsbD i

/-- `n` free words taken. -/
def State.drawn (s : State) (n : Nat) : State := { s with draws := s.draws + n }

/-- A saved PSR that holds no value: the free word number `n`. -/
def freeSavedPsr (n : Nat) : SavedPsr := SavedPsr.ofWord (Config.freeWord n)

/-! ## Taking an exception, and returning from one -/

/-- `Cfg.vector` (60_exceptions R352). -/
def Exc.vector : Exc → Word
  | .undefinedInstruction => 0x04#32
  | .softwareInterrupt => 0x08#32
  | .prefetchAbort => 0x0C#32
  | .dataAbort => 0x10#32
  | .addressException => 0x14#32
  | .irq => 0x18#32
  | .fiq => 0x1C#32

/-- How far beyond `pc` the saved return address is (60_exceptions R354). -/
def Exc.returnOffset : Exc → Word
  | .undefinedInstruction | .softwareInterrupt | .prefetchAbort | .irq | .fiq => 4#32
  | .dataAbort | .addressException => 8#32

/-- The mode entered (60_exceptions R353). An address exception cannot occur in the 32-bit configuration, whose
addresses are all in range; its line there is never used. -/
def Exc.mode (e : Exc) (entry32 : Bool) : Mode :=
  if entry32 then
    match e with
    | .undefinedInstruction => .und32
    | .softwareInterrupt | .addressException => .svc32
    | .prefetchAbort | .dataAbort => .abt32
    | .irq => .irq32
    | .fiq => .fiq32
  else
    match e with
    | .undefinedInstruction | .softwareInterrupt | .prefetchAbort | .dataAbort | .addressException => .svc26
    | .irq => .irq26
    | .fiq => .fiq26

/-- The bank of the mode entered. -/
def Exc.bank (e : Exc) (entry32 : Bool) : ExcBank :=
  match e with
  | .irq => .irq
  | .fiq => .fiq
  | .softwareInterrupt | .addressException => .svc
  | .undefinedInstruction => if entry32 then .und else .svc
  | .prefetchAbort | .dataAbort => if entry32 then .abt else .svc

/-- What both kinds of entry do (60_exceptions R355): the mode, R14 of the new mode, I, for FIQ also F, and `pc`. The
hazard of 70_reset R412 does not outlive it. -/
def State.enter (s : State) (e : Exc) (link : Word) : State :=
  let m := e.mode s.cfg.entry32
  let t := ({ s with psr := { s.psr with mode := m } } : State).setReg 14#4 link
  { t with psr := { t.psr with i := true, f := t.psr.f || decide (e = .fiq) }, pc := e.vector, hazard := false }

/-- The SPSR of the entered mode after a 26-bit entry of a part that has it: no value, so a free one
(60_exceptions R355; log 14). -/
def State.losesSpsr (s : State) (b : ExcBank) : State :=
  if s.cfg.variant.hasPsr32 then
    ({ s with spsrs := s.spsrs.write b (freeSavedPsr s.draws) } : State).drawn 1
  else s

/-- Exception entry (60_exceptions R355). -/
def takeException (e : Exc) (s : State) : Answer :=
  let ret := s.pc + e.returnOffset
  if s.cfg.entry32 then
    .next { s.enter e ret with spsrs := s.spsrs.write (e.bank true) s.psr.save }
  else if s.mode26 then
    .next ((s.enter e (s.r15With ret)).losesSpsr (e.bank false))
  else .refused .exceptionFrom32BitMode

/-- The registers after the reset event: no values, so free ones, from the free word number `n` on (70_reset R400). -/
def freeRegs (n : Nat) : Regs where
  usr := .ofFn fun i => Config.freeWord (n + i.val)
  fiq := .ofFn fun i => Config.freeWord (n + 15 + i.val)
  irq := .ofFn fun i => Config.freeWord (n + 22 + i.val)
  svc := .ofFn fun i => Config.freeWord (n + 24 + i.val)
  abt := .ofFn fun i => Config.freeWord (n + 26 + i.val)
  und := .ofFn fun i => Config.freeWord (n + 28 + i.val)

/-- The saved PSRs after the reset event (70_reset R400). -/
def freeSpsrs (n : Nat) : Spsrs where
  fiq := freeSavedPsr n
  irq := freeSavedPsr (n + 1)
  svc := freeSavedPsr (n + 2)
  abt := freeSavedPsr (n + 3)
  und := freeSavedPsr (n + 4)

/-- The reset event (70_reset R400): SVC mode, I and F set, `pc` 0, memory unchanged; the flags, every register and
every SPSR hold no value, so free ones (log 8); each coprocessor is in a state of its own choosing. -/
def resetEvent (s : State) : State :=
  let d := s.draws
  { s with
    regs := freeRegs (d + 1)
    spsrs := freeSpsrs (d + 31)
    psr := { n := s.freeBit 31, z := s.freeBit 30, c := s.freeBit 29, v := s.freeBit 28, i := true, f := true,
             mode := if s.cfg.entry32 then .svc32 else .svc26 }
    pc := 0#32
    hazard := false
    cps := .ofFn fun p => (s.cps[p]).map (Config.cpReset p)
    draws := d + 36 }

/-- R15 written with a result, and with `restore` the PSR too: the return from an exception (60_exceptions R370;
41_data_processing R188, R189; 45_block_data_transfer R274). `user32` is the refusal in 32-bit user mode. -/
def State.writeR15 (s : State) (user32 : Refusal) (restore : Bool) (v : Word) : Except Stop State :=
  if !restore then .ok (s.writePc v)
  else if s.mode26 then .ok { s.writePc v with psr := s.psr.writeR15 v }
  else
    match s.psr.mode.bank with
    | none => .error (.refuse user32)
    | some b =>
      let q := s.spsrs.read b
      match Mode.ofBits q.m with
      | none => .error (.fault .undefinedMode)
      | some m =>
        if m.is26 && decide (2 ^ 26 ≤ (s.pcTarget v).toNat) then .error (.refuse .pcOutOf26BitRange)
        else .ok { s.writePc v with psr := q.restore m }

/-! ## The frame of an instruction -/

/-- The answer of an instruction that stops part way: the exception taken, the fault, or the refusal. -/
def stopWith (s : State) : Stop → Answer
  | .exc e => takeException e s
  | .fault f => .fault f
  | .refuse r => .refused r

/-- On with the value, or stop: the state in which a stop is taken is `s`. -/
def andThen {α : Type} (s : State) (r : Except Stop α) (k : α → Answer) : Answer :=
  match r with
  | .ok a => k a
  | .error e => stopWith s e

/-- A refusal if there is one, else on. -/
def refuseIf (r : Option Refusal) (k : Answer) : Answer :=
  match r with
  | some r => .refused r
  | none => k

/-- A failed condition passes over the instruction (40_condition_codes R141 step 3, R143). -/
def conditional (c : Cond) (s : State) (body : State → Answer) : Answer :=
  if condPassed c s.psr then body s else .next { s with hazard := false }.advance

/-- The hazard of 70_reset R412 and R413: the instruction after must not use R8 to R14; it lasts one instruction. -/
def guardBanked (banked : Bool) (s : State) (body : State → Answer) : Answer :=
  if s.hazard && banked then .refused .bankedRegisterAfterModeChange else body { s with hazard := false }

/-- Whether one of the registers named is R8 to R14 (70_reset R412). -/
def anyBanked (rs : List Reg) : Bool := rs.any Reg.banked

/-- A condition, then the hazard, then the instruction's own rule, for one that names the registers `rs`. -/
def instruction (c : Cond) (rs : List Reg) (s : State) (body : State → Answer) : Answer :=
  conditional c s fun s => guardBanked (anyBanked rs) s body

end Sys2Proof.Machine
end

