-- ==== Sys2Proof/Machine/Operands.lean ====
section
/-!
DEFINITION. The operand forms: the second operand of data processing with its shifter (41_data_processing R151 to
R159), the offset of a single data transfer (44_single_data_transfer R231), the register list and the addresses of a
block data transfer (45_block_data_transfer R262).
-/

namespace Sys2Proof.Machine

/-- A shifted value and the shifter carry (41_data_processing R151). -/
structure Shifted where
  value : Word
  carry : Bool
deriving DecidableEq, Repr

/-- Logical shift left; `c` is the carry flag (41_data_processing R152). -/
def shiftLsl (v : Word) (n : Nat) (c : Bool) : Shifted :=
  if n = 0 then ⟨v, c⟩
  else if n ≤ 31 then ⟨v <<< n, v.getLsbD (32 - n)⟩
  else if n = 32 then ⟨0#32, v.getLsbD 0⟩
  else ⟨0#32, false⟩

/-- Logical shift right (41_data_processing R153). -/
def shiftLsr (v : Word) (n : Nat) (c : Bool) : Shifted :=
  if n = 0 then ⟨v, c⟩
  else if n ≤ 31 then ⟨v >>> n, v.getLsbD (n - 1)⟩
  else if n = 32 then ⟨0#32, v.getLsbD 31⟩
  else ⟨0#32, false⟩

/-- Arithmetic shift right (41_data_processing R154). -/
def shiftAsr (v : Word) (n : Nat) (c : Bool) : Shifted :=
  if n = 0 then ⟨v, c⟩
  else if n ≤ 31 then ⟨v.sshiftRight n, v.getLsbD (n - 1)⟩
  else ⟨if v.getLsbD 31 then 0xFFFFFFFF#32 else 0#32, v.getLsbD 31⟩

/-- Rotate right (41_data_processing R155). -/
def shiftRor (v : Word) (n : Nat) (c : Bool) : Shifted :=
  if n = 0 then ⟨v, c⟩
  else
    let k := n % 32
    if k = 0 then ⟨v, v.getLsbD 31⟩
    else
      let result := (v >>> k) ||| (v <<< (32 - k))
      ⟨result, result.getLsbD 31⟩

/-- Rotate right one bit with extend (41_data_processing R156). -/
def shiftRrx (v : Word) (c : Bool) : Shifted := ⟨BitVec.ofBool c ++ field v 1 31, v.getLsbD 0⟩

/-- A shift by an amount that is taken as it is (41_data_processing R157). -/
def shiftBy (sh : ShiftType) (v : Word) (n : Nat) (c : Bool) : Shifted :=
  match sh with
  | .lsl => shiftLsl v n c
  | .lsr => shiftLsr v n c
  | .asr => shiftAsr v n c
  | .ror => shiftRor v n c

/-- A shift by the constant field of an instruction, where 0 means LSR #32, ASR #32 and RRX (41_data_processing R151). -/
def shiftConst (sh : ShiftType) (v : Word) (amt : BitVec 5) (c : Bool) : Shifted :=
  match sh with
  | .lsl => shiftLsl v amt.toNat c
  | .lsr => shiftLsr v (if amt = 0#5 then 32 else amt.toNat) c
  | .asr => shiftAsr v (if amt = 0#5 then 32 else amt.toNat) c
  | .ror => if amt = 0#5 then shiftRrx v c else shiftRor v amt.toNat c

/-- `ImmOperand` (41_data_processing R158). -/
def immOperand (rot : BitVec 4) (imm : BitVec 8) (c : Bool) : Shifted :=
  shiftRor (imm.setWidth 32) (2 * rot.toNat) c

/-- The second operand of data processing (30_encoding R102, 41_data_processing R151). -/
inductive Op2 where
  | imm (rot : BitVec 4) (imm : BitVec 8)
  | reg (amt : BitVec 5) (sh : ShiftType) (rm : Reg)
  | regShift (rs : Reg) (sh : ShiftType) (rm : Reg)
deriving DecidableEq, Repr

/-- The registers the operand names. -/
def Op2.regs : Op2 → List Reg
  | .imm _ _ => []
  | .reg _ _ rm => [rm]
  | .regShift rs _ rm => [rs, rm]

/-- Rm of a shifted operand: R15 reads in full in a 26-bit mode (41_data_processing R159). -/
def State.rmValue (s : State) (rm : Reg) : Word :=
  if rm = 15#4 then (if s.mode26 then s.r15Full else s.pcRead) else s.reg rm

/-- `ShifterOperand` (41_data_processing R151). -/
def State.shifterOperand (s : State) : Op2 → Shifted
  | .imm rot imm => immOperand rot imm s.psr.c
  | .reg amt sh rm => shiftConst sh (s.rmValue rm) amt s.psr.c
  | .regShift rs sh rm => shiftBy sh (s.rmValue rm) ((s.reg rs).setWidth 8).toNat s.psr.c

/-- R15 takes no part in a register-specified shift (41_data_processing R157): `named` are the registers the
instruction reads beside Rc and Rm. -/
def Op2.refusal (o : Op2) (named : List Reg) : Option Refusal :=
  match o with
  | .imm _ _ | .reg _ _ _ => none
  | .regShift rs _ rm => if 15#4 ∈ rs :: rm :: named then some .r15WithRegisterShift else none

/-- The offset of a single data transfer (44_single_data_transfer R231). -/
inductive Offset where
  | imm (off : BitVec 12)
  | reg (amt : BitVec 5) (sh : ShiftType) (rm : Reg)
deriving DecidableEq, Repr

/-- The registers the offset names. -/
def Offset.regs : Offset → List Reg
  | .imm _ => []
  | .reg _ _ rm => [rm]

/-- The value of the offset; the shifter carry is discarded (44_single_data_transfer R231). -/
def State.offsetValue (s : State) : Offset → Word
  | .imm off => off.setWidth 32
  | .reg amt sh rm => (shiftConst sh (s.reg rm) amt s.psr.c).value

/-- The base plus or minus the offset (44_single_data_transfer R233, 47_coprocessor R303). -/
def indexed (u : Bool) (base off : Word) : Word := if u then base + off else base - off

/-- The registers of a list, ascending (45_block_data_transfer R262). -/
def listRegs (list : BitVec 16) : List Reg :=
  [0#4, 1#4, 2#4, 3#4, 4#4, 5#4, 6#4, 7#4, 8#4, 9#4, 10#4, 11#4, 12#4, 13#4, 14#4, 15#4].filter
    fun r => list.getLsbD r.toNat

/-- Four bytes for each register of the list, as an address distance. -/
def listBytes (list : BitVec 16) : Word := BitVec.ofNat 32 (4 * (listRegs list).length)

/-- The lowest address of a block transfer (45_block_data_transfer R262). -/
def blockStart (p u : Bool) (b : Word) (list : BitVec 16) : Word :=
  match u, p with
  | true, false => b
  | true, true => b + 4#32
  | false, false => b - listBytes list + 4#32
  | false, true => b - listBytes list

/-- The address a block transfer writes back (45_block_data_transfer R262). -/
def blockFinal (u : Bool) (b : Word) (list : BitVec 16) : Word :=
  if u then b + listBytes list else b - listBytes list

/-- `n` consecutive word addresses from `a` up (45_block_data_transfer R262). -/
def wordAddrs (a : Word) : Nat → List Word
  | 0 => []
  | n + 1 => a :: wordAddrs (a + 4#32) n

end Sys2Proof.Machine
end

