-- ==== Sys2Proof/Machine/BlockTransfer.lean ====
section
/-!
DEFINITION. Block data transfer (45_block_data_transfer).
-/

namespace Sys2Proof.Machine

/-- Bit 15 of the list: R15 (30_encoding R121). -/
def hasR15 (list : BitVec 16) : Bool := list.getLsbD 15

/-- The transfer is one of the user bank: S, and not a load of R15 (45_block_data_transfer R275). -/
def userBank (l sb : Bool) (list : BitVec 16) : Bool := sb && !(l && hasR15 list)

/-- The restrictions of 45_block_data_transfer R275 to R278. In user mode the user bank form is the plain one, so its
write back is not refused there (log 28). -/
def State.blockRefusal (s : State) (l sb w : Bool) (rn : Reg) (list : BitVec 16) : Option Refusal :=
  if rn = 15#4 then some .pcAsBase
  else if list = 0#16 then some .emptyList
  else if userBank l sb list ∧ w ∧ s.privileged then some .userBankWriteBack
  else if w ∧ list.getLsbD rn.toNat then some .baseInListWriteBack
  else if l = false ∧ hasR15 list then some .storeOfR15
  else none

/-- The addresses of the transfer, ascending (45_block_data_transfer R262). -/
def State.blockAddrs (s : State) (p u : Bool) (rn : Reg) (list : BitVec 16) : List Word :=
  wordAddrs (blockStart p u (s.reg rn) list) (listRegs list).length

/-- Some address is out of the range of a 26-bit part (45_block_data_transfer R280). -/
def State.outOfRange (s : State) (addrs : List Word) : Bool :=
  addrs.any fun a => decide (2 ^ s.cfg.variant.addrBits ≤ a.toNat)

/-- The value a block store stores for a register: the base as it was at the start, the user copy in the user bank
form (45_block_data_transfer R265, R276; log 17). -/
def State.blockValue (s : State) (user : Bool) (rn r : Reg) : Word :=
  if r = rn then s.reg rn else if user then s.userReg r else s.reg r

/-- One loaded word into its register, R15 apart (45_block_data_transfer R265). -/
def State.blockLoadReg (user : Bool) (s : State) (rv : Reg × Word) : State :=
  if rv.1 = 15#4 then s else if user then s.setUserReg rv.1 rv.2 else s.setReg rv.1 rv.2

/-- The base written back, if W (45_block_data_transfer R265). -/
def State.blockBack (s : State) (w : Bool) (rn : Reg) (final : Word) : State :=
  if w then s.setReg rn final else s

/-- The loaded words into their registers, in ascending order, R15 apart (45_block_data_transfer R265). -/
def State.blockLoadRegs (s : State) (user : Bool) (rvs : List (Reg × Word)) : State :=
  rvs.foldl (State.blockLoadReg user) s

/-- On to the next instruction, with the hazard of 70_reset R413 after a user bank transfer in a privileged mode. -/
def State.finishBlock (s : State) (user : Bool) : State := { s with hazard := user && s.privileged }.advance

/-- A block load (45_block_data_transfer R265): every word is read before any register is written, and R15 is written
last (R274). -/
def blockLoad (p u : Bool) (c : Cond) (sb w : Bool) (rn : Reg) (list : BitVec 16) (s : State) : Answer :=
  instruction c (rn :: listRegs list) s fun s =>
    refuseIf (s.blockRefusal true sb w rn list) (
      let b := s.reg rn
      let addrs := s.blockAddrs p u rn list
      if !Word.aligned b then .refused .unalignedAccess
      else if s.outOfRange addrs then takeException .addressException s
      else
        andThen s (s.loadAll addrs) fun vs =>
          let user := userBank true sb list
          let t := (s.blockBack w rn (blockFinal u b list)).blockLoadRegs user ((listRegs list).zip vs)
          if hasR15 list then andThen s (t.writeR15 .blockRestoreInUser32 sb (vs.getLastD 0#32)) .next
          else .next (t.finishBlock user))

/-- A block store (45_block_data_transfer R265); what an abort finds stored stays stored (R279). -/
def blockStore (p u : Bool) (c : Cond) (sb w : Bool) (rn : Reg) (list : BitVec 16) (s : State) : Answer :=
  instruction c (rn :: listRegs list) s fun s =>
    refuseIf (s.blockRefusal false sb w rn list) (
      let b := s.reg rn
      let addrs := s.blockAddrs p u rn list
      if !Word.aligned b then .refused .unalignedAccess
      else if s.outOfRange addrs then takeException .addressException s
      else
        let user := userBank false sb list
        let r := s.storeAll (addrs.zip ((listRegs list).map (s.blockValue user rn)))
        match r.2 with
        | some e => stopWith r.1 e
        | none => .next ((r.1.blockBack w rn (blockFinal u b list)).finishBlock user))

/-- LDMIA (45_block_data_transfer R266). -/
def execLdmia (c : Cond) (sb w : Bool) (rn : Reg) (list : BitVec 16) (s : State) : Answer :=
  blockLoad false true c sb w rn list s

/-- LDMIB (45_block_data_transfer R267). -/
def execLdmib (c : Cond) (sb w : Bool) (rn : Reg) (list : BitVec 16) (s : State) : Answer :=
  blockLoad true true c sb w rn list s

/-- LDMDA (45_block_data_transfer R268). -/
def execLdmda (c : Cond) (sb w : Bool) (rn : Reg) (list : BitVec 16) (s : State) : Answer :=
  blockLoad false false c sb w rn list s

/-- LDMDB (45_block_data_transfer R269). -/
def execLdmdb (c : Cond) (sb w : Bool) (rn : Reg) (list : BitVec 16) (s : State) : Answer :=
  blockLoad true false c sb w rn list s

/-- STMIA (45_block_data_transfer R270). -/
def execStmia (c : Cond) (sb w : Bool) (rn : Reg) (list : BitVec 16) (s : State) : Answer :=
  blockStore false true c sb w rn list s

/-- STMIB (45_block_data_transfer R271). -/
def execStmib (c : Cond) (sb w : Bool) (rn : Reg) (list : BitVec 16) (s : State) : Answer :=
  blockStore true true c sb w rn list s

/-- STMDA (45_block_data_transfer R272). -/
def execStmda (c : Cond) (sb w : Bool) (rn : Reg) (list : BitVec 16) (s : State) : Answer :=
  blockStore false false c sb w rn list s

/-- STMDB (45_block_data_transfer R273). -/
def execStmdb (c : Cond) (sb w : Bool) (rn : Reg) (list : BitVec 16) (s : State) : Answer :=
  blockStore true false c sb w rn list s

end Sys2Proof.Machine
end

