-- ==== Sys2Proof/Machine/Branch.lean ====
section
/-!
DEFINITION. Branch, and branch with link (42_branch).
-/

namespace Sys2Proof.Machine

/-- `BranchTarget` (42_branch R200). -/
def State.branchTarget (s : State) (off : BitVec 24) : Word :=
  let t := s.pc + 8#32 + 4#32 * off.signExtend 32
  if s.mode26 then t &&& 0x03FFFFFF#32 else t

/-- The return address that BL leaves in R14: in a 26-bit mode with the PSR (42_branch R202). -/
def State.linkValue (s : State) : Word :=
  if s.mode26 then s.r15With (s.pc + 4#32) else s.pc + 4#32

/-- B (42_branch R201). -/
def execB (c : Cond) (off : BitVec 24) (s : State) : Answer :=
  instruction c [] s fun s => .next { s with pc := s.branchTarget off }

/-- BL (42_branch R202). -/
def execBl (c : Cond) (off : BitVec 24) (s : State) : Answer :=
  instruction c [14#4] s fun s => .next { s.setReg 14#4 s.linkValue with pc := s.branchTarget off }

end Sys2Proof.Machine
end

