-- ==== Sys2Proof/Machine/SingleTransfer.lean ====
section
/-!
DEFINITION. Single data transfer (44_single_data_transfer) and single data swap (48_swap).
-/

namespace Sys2Proof.Machine

/-- The transfer moves the base: post-indexed, or pre-indexed with W (44_single_data_transfer R232). -/
def writesBack (p w : Bool) : Bool := !p || w

/-- The transfer is presented as a user-mode one: post-indexed with W, the T forms (44_single_data_transfer R232). -/
def asUserMode (p w : Bool) : Bool := !p && w

/-- The restrictions of 44_single_data_transfer R231, R245, R246 and R247. -/
def transferRefusal (l : Bool) (z : Size) (p w : Bool) (rn rd : Reg) (o : Offset) : Option Refusal :=
  if 15#4 ∈ o.regs then some .pcAsOffset
  else if rn = 15#4 ∧ writesBack p w then some .r15BaseWriteBack
  else if rd = rn ∧ writesBack p w then some .rdEqRnWriteBack
  else if rn ∈ o.regs ∧ p = false then some .rmEqRnPostIndexed
  else if rd = 15#4 ∧ l = false then some .storeOfR15
  else if rd = 15#4 ∧ z = .byte then some .byteLoadToR15
  else none

/-- `idx`: the base plus or minus the offset (44_single_data_transfer R233). -/
def State.transferIndex (s : State) (u : Bool) (rn : Reg) (o : Offset) : Word :=
  indexed u (s.reg rn) (s.offsetValue o)

/-- `addr`: where the transfer is (44_single_data_transfer R233). -/
def State.transferAddr (s : State) (p u : Bool) (rn : Reg) (o : Offset) : Word :=
  if p then s.transferIndex u rn o else s.reg rn

/-- The base written back, if the form does (44_single_data_transfer R232). -/
def State.writeBack (s : State) (p w : Bool) (rn : Reg) (idx : Word) : State :=
  if writesBack p w then s.setReg rn idx else s

/-- A loaded value into Rd: R15 is a jump, anything else is followed by the next instruction
(44_single_data_transfer R233, R247). -/
def State.finishLoad (s : State) (rd : Reg) (v : Word) : State :=
  if rd = 15#4 then s.writePc v else (s.setReg rd v).advance

/-- `SingleTransfer` (44_single_data_transfer R233): `l` a load, `z` its width, with the bits P, U and W. -/
def singleTransfer (l : Bool) (z : Size) (c : Cond) (p u w : Bool) (rn rd : Reg) (o : Offset) (s : State) : Answer :=
  instruction c (rn :: rd :: o.regs) s fun s =>
    refuseIf (transferRefusal l z p w rn rd o) (
      let idx := s.transferIndex u rn o
      let addr := s.transferAddr p u rn o
      if !z.fits addr then .refused .unalignedAccess
      else if l then
        andThen s (s.load z (asUserMode p w) addr) fun v => .next ((s.writeBack p w rn idx).finishLoad rd v)
      else
        andThen s (s.store z (asUserMode p w) addr (s.reg rd)) fun t => .next (t.writeBack p w rn idx).advance)

/-- `SWP` and `SWPB` (48_swap R320): the old value is read, then Rm's value stored, then Rd written. -/
def swap (z : Size) (c : Cond) (rn rd rm : Reg) (s : State) : Answer :=
  instruction c [rn, rd, rm] s fun s =>
    if 15#4 ∈ [rd, rn, rm] then .refused .swpWithR15
    else
      let addr := s.reg rn
      if !z.fits addr then .refused .unalignedAccess
      else
        andThen s (s.load z false addr) fun old =>
          andThen s (s.store z false addr (s.reg rm)) fun t => .next (t.setReg rd old).advance

/-- LDRT, immediate offset (44_single_data_transfer R239). -/
def execLdrtImm (c : Cond) (u : Bool) (rn rd : Reg) (off : BitVec 12) (s : State) : Answer :=
  singleTransfer true .word c false u true rn rd (.imm off) s

/-- LDRT, register offset (44_single_data_transfer R239). -/
def execLdrtReg (c : Cond) (u : Bool) (rn rd : Reg) (amt : BitVec 5) (sh : ShiftType) (rm : Reg) (s : State) : Answer :=
  singleTransfer true .word c false u true rn rd (.reg amt sh rm) s

/-- STRT, immediate offset (44_single_data_transfer R240). -/
def execStrtImm (c : Cond) (u : Bool) (rn rd : Reg) (off : BitVec 12) (s : State) : Answer :=
  singleTransfer false .word c false u true rn rd (.imm off) s

/-- STRT, register offset (44_single_data_transfer R240). -/
def execStrtReg (c : Cond) (u : Bool) (rn rd : Reg) (amt : BitVec 5) (sh : ShiftType) (rm : Reg) (s : State) : Answer :=
  singleTransfer false .word c false u true rn rd (.reg amt sh rm) s

/-- LDRBT, immediate offset (44_single_data_transfer R241). -/
def execLdrbtImm (c : Cond) (u : Bool) (rn rd : Reg) (off : BitVec 12) (s : State) : Answer :=
  singleTransfer true .byte c false u true rn rd (.imm off) s

/-- LDRBT, register offset (44_single_data_transfer R241). -/
def execLdrbtReg (c : Cond) (u : Bool) (rn rd : Reg) (amt : BitVec 5) (sh : ShiftType) (rm : Reg) (s : State) : Answer :=
  singleTransfer true .byte c false u true rn rd (.reg amt sh rm) s

/-- STRBT, immediate offset (44_single_data_transfer R242). -/
def execStrbtImm (c : Cond) (u : Bool) (rn rd : Reg) (off : BitVec 12) (s : State) : Answer :=
  singleTransfer false .byte c false u true rn rd (.imm off) s

/-- STRBT, register offset (44_single_data_transfer R242). -/
def execStrbtReg (c : Cond) (u : Bool) (rn rd : Reg) (amt : BitVec 5) (sh : ShiftType) (rm : Reg) (s : State) : Answer :=
  singleTransfer false .byte c false u true rn rd (.reg amt sh rm) s

/-- LDR, immediate offset (44_single_data_transfer R235). -/
def execLdrImm (c : Cond) (p u w : Bool) (rn rd : Reg) (off : BitVec 12) (s : State) : Answer :=
  singleTransfer true .word c p u w rn rd (.imm off) s

/-- LDR, register offset (44_single_data_transfer R235). -/
def execLdrReg (c : Cond) (p u w : Bool) (rn rd : Reg) (amt : BitVec 5) (sh : ShiftType) (rm : Reg) (s : State) : Answer :=
  singleTransfer true .word c p u w rn rd (.reg amt sh rm) s

/-- STR, immediate offset (44_single_data_transfer R236). -/
def execStrImm (c : Cond) (p u w : Bool) (rn rd : Reg) (off : BitVec 12) (s : State) : Answer :=
  singleTransfer false .word c p u w rn rd (.imm off) s

/-- STR, register offset (44_single_data_transfer R236). -/
def execStrReg (c : Cond) (p u w : Bool) (rn rd : Reg) (amt : BitVec 5) (sh : ShiftType) (rm : Reg) (s : State) : Answer :=
  singleTransfer false .word c p u w rn rd (.reg amt sh rm) s

/-- LDRB, immediate offset (44_single_data_transfer R237). -/
def execLdrbImm (c : Cond) (p u w : Bool) (rn rd : Reg) (off : BitVec 12) (s : State) : Answer :=
  singleTransfer true .byte c p u w rn rd (.imm off) s

/-- LDRB, register offset (44_single_data_transfer R237). -/
def execLdrbReg (c : Cond) (p u w : Bool) (rn rd : Reg) (amt : BitVec 5) (sh : ShiftType) (rm : Reg) (s : State) : Answer :=
  singleTransfer true .byte c p u w rn rd (.reg amt sh rm) s

/-- STRB, immediate offset (44_single_data_transfer R238). -/
def execStrbImm (c : Cond) (p u w : Bool) (rn rd : Reg) (off : BitVec 12) (s : State) : Answer :=
  singleTransfer false .byte c p u w rn rd (.imm off) s

/-- STRB, register offset (44_single_data_transfer R238). -/
def execStrbReg (c : Cond) (p u w : Bool) (rn rd : Reg) (amt : BitVec 5) (sh : ShiftType) (rm : Reg) (s : State) : Answer :=
  singleTransfer false .byte c p u w rn rd (.reg amt sh rm) s

/-- SWP (48_swap R320). -/
def execSwp (c : Cond) (rn rd rm : Reg) (s : State) : Answer :=
  swap .word c rn rd rm s

/-- SWPB (48_swap R320). -/
def execSwpb (c : Cond) (rn rd rm : Reg) (s : State) : Answer :=
  swap .byte c rn rd rm s

end Sys2Proof.Machine
end

