-- ==== Sys2Proof/Machine/Coprocessor.lean ====
section
/-!
DEFINITION. The coprocessor instructions (47_coprocessor).
-/

namespace Sys2Proof.Machine

/-- The 28 low bits of an instruction, which is what a coprocessor sees of it (47_coprocessor R300). -/
def lowBits (i : Instr) : BitVec 28 := field (encode i) 0 28

/-- Coprocessor `p`, if it is attached. -/
def State.coproc (s : State) (p : BitVec 4) : Option Coproc := s.cps[p.toNat]'(p.isLt)

/-- Coprocessor `p` in a new state. -/
def State.setCoproc (s : State) (p : BitVec 4) (k : Coproc) : State :=
  { s with cps := s.cps.set p.toNat (some k) (p.isLt) }

/-- An absent coprocessor, or one that does not respond, is an undefined instruction, before anything else
(47_coprocessor R301); else the registers `rs` and the hazard, then the instruction's own rule. -/
def withCoproc (i : Instr) (p : BitVec 4) (rs : List Reg) (s : State) (body : Coproc → State → Answer) : Answer :=
  match s.coproc p with
  | none => takeException .undefinedInstruction s
  | some k =>
    if k.responds (lowBits i) then guardBanked (anyBanked rs) s (body k)
    else takeException .undefinedInstruction s

/-- The offset of LDC and STC: a count of words (30_encoding R119). -/
def wordOffset (off : BitVec 8) : Word := 4#32 * off.setWidth 32

/-- The index of LDC and STC (47_coprocessor R303). -/
def State.cpIndex (s : State) (u : Bool) (rn : Reg) (off : BitVec 8) : Word := indexed u (s.reg rn) (wordOffset off)

/-- The first address of LDC and STC (47_coprocessor R303). -/
def State.cpAddr (s : State) (p u : Bool) (rn : Reg) (off : BitVec 8) : Word :=
  if p then s.cpIndex u rn off else s.reg rn

/-- CDP (47_coprocessor R302). -/
def execCdp (c : Cond) (op crn crd cp : BitVec 4) (q : BitVec 3) (crm : BitVec 4) (s : State) : Answer :=
  let i := Instr.cdp c op crn crd cp q crm
  conditional c s fun s => withCoproc i cp [] s fun k s =>
    .next (s.setCoproc cp (Config.cpCdp cp k (lowBits i))).advance

/-- MRC (47_coprocessor R306), into R15 the flags (R308). -/
def execMrc (c : Cond) (op : BitVec 3) (crn : BitVec 4) (rd : Reg) (cp : BitVec 4) (q : BitVec 3) (crm : BitVec 4)
    (s : State) : Answer :=
  let i := Instr.mrc c op crn rd cp q crm
  conditional c s fun s => withCoproc i cp [rd] s fun k s =>
    let w := Config.cpMrcWord cp k (lowBits i)
    let t := s.setCoproc cp (Config.cpMrcState cp k (lowBits i))
    .next (if rd = 15#4 then { t with psr := t.psr.withTopFlags w } else t.setReg rd w).advance

/-- MCR (47_coprocessor R305). -/
def execMcr (c : Cond) (op : BitVec 3) (crn : BitVec 4) (rd : Reg) (cp : BitVec 4) (q : BitVec 3) (crm : BitVec 4)
    (s : State) : Answer :=
  let i := Instr.mcr c op crn rd cp q crm
  conditional c s fun s =>
    if rd = 15#4 then .refused .mcrWithR15
    else withCoproc i cp [rd] s fun k s =>
      .next (s.setCoproc cp (Config.cpMcr cp k (lowBits i) (s.reg rd))).advance

/-- LDC (47_coprocessor R303): every word is read before Rn or the coprocessor changes. -/
def execLdc (c : Cond) (p u n w : Bool) (rn : Reg) (crd cp : BitVec 4) (off : BitVec 8) (s : State) : Answer :=
  let i := Instr.ldc c p u n w rn crd cp off
  conditional c s fun s => withCoproc i cp [rn] s fun k s =>
    if rn = 15#4 ∧ writesBack p w then .refused .r15BaseWriteBack
    else if !Word.aligned (s.cpAddr p u rn off) then .refused .unalignedAccess
    else
      let addrs := wordAddrs (s.cpAddr p u rn off) (Config.cpLdcMore cp k (lowBits i) + 1)
      andThen s (s.loadAll addrs) fun ws =>
        .next ((s.writeBack p w rn (s.cpIndex u rn off)).setCoproc cp (Config.cpLdc cp k (lowBits i) ws)).advance

/-- STC (47_coprocessor R304): what an abort finds stored stays stored, and neither Rn nor the coprocessor changes. -/
def execStc (c : Cond) (p u n w : Bool) (rn : Reg) (crd cp : BitVec 4) (off : BitVec 8) (s : State) : Answer :=
  let i := Instr.stc c p u n w rn crd cp off
  conditional c s fun s => withCoproc i cp [rn] s fun k s =>
    if rn = 15#4 ∧ writesBack p w then .refused .r15BaseWriteBack
    else if !Word.aligned (s.cpAddr p u rn off) then .refused .unalignedAccess
    else
      let count := Config.cpStcMore cp k (lowBits i) + 1
      let addrs := wordAddrs (s.cpAddr p u rn off) count
      let r := s.storeAll (addrs.zip ((List.range count).map (Config.cpStcWord cp k (lowBits i))))
      match r.2 with
      | some e => stopWith r.1 e
      | none =>
        .next ((r.1.writeBack p w rn (s.cpIndex u rn off)).setCoproc cp (Config.cpStcState cp k (lowBits i))).advance

end Sys2Proof.Machine
end

