-- ==== Sys2Proof/Machine/DataProc.lean ====
section
/-!
DEFINITION. The data processing instructions and the P forms (41_data_processing).
-/

namespace Sys2Proof.Machine

/-- A result into Rd, and with S its flags (41_data_processing R161). -/
def State.setResult (s : State) (sb : Bool) (rd : Reg) (r : AluResult) : State :=
  let t := s.setReg rd r.value
  if sb then { t with psr := t.psr.withFlags r.value r.c r.v } else t

/-- What a data processing instruction computes: `a` Rn, the second operand and the shifter carry (41_data_processing
R161); every source register is read before anything is written. -/
def State.aluResult (s : State) (op : AluOp) (rn : Reg) (o : Op2) : AluResult :=
  let sh := s.shifterOperand o
  alu op (s.reg rn) sh.value sh.carry s.psr

/-- An operation that writes Rd (41_data_processing R161; Rd = R15: R188, R189). -/
def dataProc (op : AluOp) (c : Cond) (sb : Bool) (rn rd : Reg) (o : Op2) (s : State) : Answer :=
  let named := if op.readsRn then [rn] else []
  instruction c (rd :: named ++ o.regs) s fun s =>
    refuseIf (o.refusal named) (
      let r := s.aluResult op rn o
      if rd = 15#4 then andThen s (s.writeR15 .statusRestoreInUser32 sb r.value) .next
      else .next (s.setResult sb rd r).advance)

/-- A test, which writes the flags alone (41_data_processing R161, R174 to R177). -/
def dataTest (op : AluOp) (c : Cond) (rn : Reg) (o : Op2) (s : State) : Answer :=
  instruction c (rn :: o.regs) s fun s =>
    refuseIf (o.refusal [rn]) (
      let r := s.aluResult op rn o
      .next { s with psr := s.psr.withFlags r.value r.c r.v }.advance)

/-- A P form: in a 26-bit mode the PSR from the result's bits (41_data_processing R186), in a 32-bit mode refused
(R187); a change of mode starts the hazard of 70_reset R412. -/
def dataTestP (op : AluOp) (c : Cond) (rn : Reg) (o : Op2) (s : State) : Answer :=
  instruction c (rn :: o.regs) s fun s =>
    if !s.mode26 then .refused .pFormIn32BitMode
    else refuseIf (o.refusal [rn]) (
      let p := s.psr.writeR15 (s.aluResult op rn o).value
      .next { s with psr := p, hazard := decide (p.mode ≠ s.psr.mode) }.advance)

/-- TSTP, immediate form (41_data_processing R186, R187). -/
def execTstpImm (c : Cond) (rn : Reg) (rot : BitVec 4) (imm : BitVec 8) (s : State) : Answer :=
  dataTestP .and c rn (.imm rot imm) s

/-- TSTP, register form (41_data_processing R186, R187). -/
def execTstpReg (c : Cond) (rn : Reg) (amt : BitVec 5) (sh : ShiftType) (rm : Reg) (s : State) : Answer :=
  dataTestP .and c rn (.reg amt sh rm) s

/-- TSTP, register-specified shift (41_data_processing R186, R187). -/
def execTstpRegShift (c : Cond) (rn rs : Reg) (sh : ShiftType) (rm : Reg) (s : State) : Answer :=
  dataTestP .and c rn (.regShift rs sh rm) s

/-- TEQP, immediate form (41_data_processing R186, R187). -/
def execTeqpImm (c : Cond) (rn : Reg) (rot : BitVec 4) (imm : BitVec 8) (s : State) : Answer :=
  dataTestP .eor c rn (.imm rot imm) s

/-- TEQP, register form (41_data_processing R186, R187). -/
def execTeqpReg (c : Cond) (rn : Reg) (amt : BitVec 5) (sh : ShiftType) (rm : Reg) (s : State) : Answer :=
  dataTestP .eor c rn (.reg amt sh rm) s

/-- TEQP, register-specified shift (41_data_processing R186, R187). -/
def execTeqpRegShift (c : Cond) (rn rs : Reg) (sh : ShiftType) (rm : Reg) (s : State) : Answer :=
  dataTestP .eor c rn (.regShift rs sh rm) s

/-- CMPP, immediate form (41_data_processing R186, R187). -/
def execCmppImm (c : Cond) (rn : Reg) (rot : BitVec 4) (imm : BitVec 8) (s : State) : Answer :=
  dataTestP .sub c rn (.imm rot imm) s

/-- CMPP, register form (41_data_processing R186, R187). -/
def execCmppReg (c : Cond) (rn : Reg) (amt : BitVec 5) (sh : ShiftType) (rm : Reg) (s : State) : Answer :=
  dataTestP .sub c rn (.reg amt sh rm) s

/-- CMPP, register-specified shift (41_data_processing R186, R187). -/
def execCmppRegShift (c : Cond) (rn rs : Reg) (sh : ShiftType) (rm : Reg) (s : State) : Answer :=
  dataTestP .sub c rn (.regShift rs sh rm) s

/-- CMNP, immediate form (41_data_processing R186, R187). -/
def execCmnpImm (c : Cond) (rn : Reg) (rot : BitVec 4) (imm : BitVec 8) (s : State) : Answer :=
  dataTestP .add c rn (.imm rot imm) s

/-- CMNP, register form (41_data_processing R186, R187). -/
def execCmnpReg (c : Cond) (rn : Reg) (amt : BitVec 5) (sh : ShiftType) (rm : Reg) (s : State) : Answer :=
  dataTestP .add c rn (.reg amt sh rm) s

/-- CMNP, register-specified shift (41_data_processing R186, R187). -/
def execCmnpRegShift (c : Cond) (rn rs : Reg) (sh : ShiftType) (rm : Reg) (s : State) : Answer :=
  dataTestP .add c rn (.regShift rs sh rm) s

/-- AND, immediate form (41_data_processing R166). -/
def execAndImm (c : Cond) (sb : Bool) (rn rd : Reg) (rot : BitVec 4) (imm : BitVec 8) (s : State) : Answer :=
  dataProc .and c sb rn rd (.imm rot imm) s

/-- AND, register form (41_data_processing R166). -/
def execAndReg (c : Cond) (sb : Bool) (rn rd : Reg) (amt : BitVec 5) (sh : ShiftType) (rm : Reg) (s : State) : Answer :=
  dataProc .and c sb rn rd (.reg amt sh rm) s

/-- AND, register-specified shift (41_data_processing R166). -/
def execAndRegShift (c : Cond) (sb : Bool) (rn rd rs : Reg) (sh : ShiftType) (rm : Reg) (s : State) : Answer :=
  dataProc .and c sb rn rd (.regShift rs sh rm) s

/-- EOR, immediate form (41_data_processing R167). -/
def execEorImm (c : Cond) (sb : Bool) (rn rd : Reg) (rot : BitVec 4) (imm : BitVec 8) (s : State) : Answer :=
  dataProc .eor c sb rn rd (.imm rot imm) s

/-- EOR, register form (41_data_processing R167). -/
def execEorReg (c : Cond) (sb : Bool) (rn rd : Reg) (amt : BitVec 5) (sh : ShiftType) (rm : Reg) (s : State) : Answer :=
  dataProc .eor c sb rn rd (.reg amt sh rm) s

/-- EOR, register-specified shift (41_data_processing R167). -/
def execEorRegShift (c : Cond) (sb : Bool) (rn rd rs : Reg) (sh : ShiftType) (rm : Reg) (s : State) : Answer :=
  dataProc .eor c sb rn rd (.regShift rs sh rm) s

/-- SUB, immediate form (41_data_processing R168). -/
def execSubImm (c : Cond) (sb : Bool) (rn rd : Reg) (rot : BitVec 4) (imm : BitVec 8) (s : State) : Answer :=
  dataProc .sub c sb rn rd (.imm rot imm) s

/-- SUB, register form (41_data_processing R168). -/
def execSubReg (c : Cond) (sb : Bool) (rn rd : Reg) (amt : BitVec 5) (sh : ShiftType) (rm : Reg) (s : State) : Answer :=
  dataProc .sub c sb rn rd (.reg amt sh rm) s

/-- SUB, register-specified shift (41_data_processing R168). -/
def execSubRegShift (c : Cond) (sb : Bool) (rn rd rs : Reg) (sh : ShiftType) (rm : Reg) (s : State) : Answer :=
  dataProc .sub c sb rn rd (.regShift rs sh rm) s

/-- RSB, immediate form (41_data_processing R169). -/
def execRsbImm (c : Cond) (sb : Bool) (rn rd : Reg) (rot : BitVec 4) (imm : BitVec 8) (s : State) : Answer :=
  dataProc .rsb c sb rn rd (.imm rot imm) s

/-- RSB, register form (41_data_processing R169). -/
def execRsbReg (c : Cond) (sb : Bool) (rn rd : Reg) (amt : BitVec 5) (sh : ShiftType) (rm : Reg) (s : State) : Answer :=
  dataProc .rsb c sb rn rd (.reg amt sh rm) s

/-- RSB, register-specified shift (41_data_processing R169). -/
def execRsbRegShift (c : Cond) (sb : Bool) (rn rd rs : Reg) (sh : ShiftType) (rm : Reg) (s : State) : Answer :=
  dataProc .rsb c sb rn rd (.regShift rs sh rm) s

/-- ADD, immediate form (41_data_processing R170). -/
def execAddImm (c : Cond) (sb : Bool) (rn rd : Reg) (rot : BitVec 4) (imm : BitVec 8) (s : State) : Answer :=
  dataProc .add c sb rn rd (.imm rot imm) s

/-- ADD, register form (41_data_processing R170). -/
def execAddReg (c : Cond) (sb : Bool) (rn rd : Reg) (amt : BitVec 5) (sh : ShiftType) (rm : Reg) (s : State) : Answer :=
  dataProc .add c sb rn rd (.reg amt sh rm) s

/-- ADD, register-specified shift (41_data_processing R170). -/
def execAddRegShift (c : Cond) (sb : Bool) (rn rd rs : Reg) (sh : ShiftType) (rm : Reg) (s : State) : Answer :=
  dataProc .add c sb rn rd (.regShift rs sh rm) s

/-- ADC, immediate form (41_data_processing R171). -/
def execAdcImm (c : Cond) (sb : Bool) (rn rd : Reg) (rot : BitVec 4) (imm : BitVec 8) (s : State) : Answer :=
  dataProc .adc c sb rn rd (.imm rot imm) s

/-- ADC, register form (41_data_processing R171). -/
def execAdcReg (c : Cond) (sb : Bool) (rn rd : Reg) (amt : BitVec 5) (sh : ShiftType) (rm : Reg) (s : State) : Answer :=
  dataProc .adc c sb rn rd (.reg amt sh rm) s

/-- ADC, register-specified shift (41_data_processing R171). -/
def execAdcRegShift (c : Cond) (sb : Bool) (rn rd rs : Reg) (sh : ShiftType) (rm : Reg) (s : State) : Answer :=
  dataProc .adc c sb rn rd (.regShift rs sh rm) s

/-- SBC, immediate form (41_data_processing R172). -/
def execSbcImm (c : Cond) (sb : Bool) (rn rd : Reg) (rot : BitVec 4) (imm : BitVec 8) (s : State) : Answer :=
  dataProc .sbc c sb rn rd (.imm rot imm) s

/-- SBC, register form (41_data_processing R172). -/
def execSbcReg (c : Cond) (sb : Bool) (rn rd : Reg) (amt : BitVec 5) (sh : ShiftType) (rm : Reg) (s : State) : Answer :=
  dataProc .sbc c sb rn rd (.reg amt sh rm) s

/-- SBC, register-specified shift (41_data_processing R172). -/
def execSbcRegShift (c : Cond) (sb : Bool) (rn rd rs : Reg) (sh : ShiftType) (rm : Reg) (s : State) : Answer :=
  dataProc .sbc c sb rn rd (.regShift rs sh rm) s

/-- RSC, immediate form (41_data_processing R173). -/
def execRscImm (c : Cond) (sb : Bool) (rn rd : Reg) (rot : BitVec 4) (imm : BitVec 8) (s : State) : Answer :=
  dataProc .rsc c sb rn rd (.imm rot imm) s

/-- RSC, register form (41_data_processing R173). -/
def execRscReg (c : Cond) (sb : Bool) (rn rd : Reg) (amt : BitVec 5) (sh : ShiftType) (rm : Reg) (s : State) : Answer :=
  dataProc .rsc c sb rn rd (.reg amt sh rm) s

/-- RSC, register-specified shift (41_data_processing R173). -/
def execRscRegShift (c : Cond) (sb : Bool) (rn rd rs : Reg) (sh : ShiftType) (rm : Reg) (s : State) : Answer :=
  dataProc .rsc c sb rn rd (.regShift rs sh rm) s

/-- TST, immediate form (41_data_processing R174); the field Rd is ignored (30_encoding R131). -/
def execTstImm (c : Cond) (rn _rd : Reg) (rot : BitVec 4) (imm : BitVec 8) (s : State) : Answer :=
  dataTest .and c rn (.imm rot imm) s

/-- TST, register form (41_data_processing R174); the field Rd is ignored (30_encoding R131). -/
def execTstReg (c : Cond) (rn _rd : Reg) (amt : BitVec 5) (sh : ShiftType) (rm : Reg) (s : State) : Answer :=
  dataTest .and c rn (.reg amt sh rm) s

/-- TST, register-specified shift (41_data_processing R174); the field Rd is ignored (30_encoding R131). -/
def execTstRegShift (c : Cond) (rn _rd rs : Reg) (sh : ShiftType) (rm : Reg) (s : State) : Answer :=
  dataTest .and c rn (.regShift rs sh rm) s

/-- TEQ, immediate form (41_data_processing R175); the field Rd is ignored (30_encoding R131). -/
def execTeqImm (c : Cond) (rn _rd : Reg) (rot : BitVec 4) (imm : BitVec 8) (s : State) : Answer :=
  dataTest .eor c rn (.imm rot imm) s

/-- TEQ, register form (41_data_processing R175); the field Rd is ignored (30_encoding R131). -/
def execTeqReg (c : Cond) (rn _rd : Reg) (amt : BitVec 5) (sh : ShiftType) (rm : Reg) (s : State) : Answer :=
  dataTest .eor c rn (.reg amt sh rm) s

/-- TEQ, register-specified shift (41_data_processing R175); the field Rd is ignored (30_encoding R131). -/
def execTeqRegShift (c : Cond) (rn _rd rs : Reg) (sh : ShiftType) (rm : Reg) (s : State) : Answer :=
  dataTest .eor c rn (.regShift rs sh rm) s

/-- CMP, immediate form (41_data_processing R176); the field Rd is ignored (30_encoding R131). -/
def execCmpImm (c : Cond) (rn _rd : Reg) (rot : BitVec 4) (imm : BitVec 8) (s : State) : Answer :=
  dataTest .sub c rn (.imm rot imm) s

/-- CMP, register form (41_data_processing R176); the field Rd is ignored (30_encoding R131). -/
def execCmpReg (c : Cond) (rn _rd : Reg) (amt : BitVec 5) (sh : ShiftType) (rm : Reg) (s : State) : Answer :=
  dataTest .sub c rn (.reg amt sh rm) s

/-- CMP, register-specified shift (41_data_processing R176); the field Rd is ignored (30_encoding R131). -/
def execCmpRegShift (c : Cond) (rn _rd rs : Reg) (sh : ShiftType) (rm : Reg) (s : State) : Answer :=
  dataTest .sub c rn (.regShift rs sh rm) s

/-- CMN, immediate form (41_data_processing R177); the field Rd is ignored (30_encoding R131). -/
def execCmnImm (c : Cond) (rn _rd : Reg) (rot : BitVec 4) (imm : BitVec 8) (s : State) : Answer :=
  dataTest .add c rn (.imm rot imm) s

/-- CMN, register form (41_data_processing R177); the field Rd is ignored (30_encoding R131). -/
def execCmnReg (c : Cond) (rn _rd : Reg) (amt : BitVec 5) (sh : ShiftType) (rm : Reg) (s : State) : Answer :=
  dataTest .add c rn (.reg amt sh rm) s

/-- CMN, register-specified shift (41_data_processing R177); the field Rd is ignored (30_encoding R131). -/
def execCmnRegShift (c : Cond) (rn _rd rs : Reg) (sh : ShiftType) (rm : Reg) (s : State) : Answer :=
  dataTest .add c rn (.regShift rs sh rm) s

/-- ORR, immediate form (41_data_processing R178). -/
def execOrrImm (c : Cond) (sb : Bool) (rn rd : Reg) (rot : BitVec 4) (imm : BitVec 8) (s : State) : Answer :=
  dataProc .orr c sb rn rd (.imm rot imm) s

/-- ORR, register form (41_data_processing R178). -/
def execOrrReg (c : Cond) (sb : Bool) (rn rd : Reg) (amt : BitVec 5) (sh : ShiftType) (rm : Reg) (s : State) : Answer :=
  dataProc .orr c sb rn rd (.reg amt sh rm) s

/-- ORR, register-specified shift (41_data_processing R178). -/
def execOrrRegShift (c : Cond) (sb : Bool) (rn rd rs : Reg) (sh : ShiftType) (rm : Reg) (s : State) : Answer :=
  dataProc .orr c sb rn rd (.regShift rs sh rm) s

/-- MOV, immediate form (41_data_processing R179). -/
def execMovImm (c : Cond) (sb : Bool) (rn rd : Reg) (rot : BitVec 4) (imm : BitVec 8) (s : State) : Answer :=
  dataProc .mov c sb rn rd (.imm rot imm) s

/-- MOV, register form (41_data_processing R179). -/
def execMovReg (c : Cond) (sb : Bool) (rn rd : Reg) (amt : BitVec 5) (sh : ShiftType) (rm : Reg) (s : State) : Answer :=
  dataProc .mov c sb rn rd (.reg amt sh rm) s

/-- MOV, register-specified shift (41_data_processing R179). -/
def execMovRegShift (c : Cond) (sb : Bool) (rn rd rs : Reg) (sh : ShiftType) (rm : Reg) (s : State) : Answer :=
  dataProc .mov c sb rn rd (.regShift rs sh rm) s

/-- BIC, immediate form (41_data_processing R180). -/
def execBicImm (c : Cond) (sb : Bool) (rn rd : Reg) (rot : BitVec 4) (imm : BitVec 8) (s : State) : Answer :=
  dataProc .bic c sb rn rd (.imm rot imm) s

/-- BIC, register form (41_data_processing R180). -/
def execBicReg (c : Cond) (sb : Bool) (rn rd : Reg) (amt : BitVec 5) (sh : ShiftType) (rm : Reg) (s : State) : Answer :=
  dataProc .bic c sb rn rd (.reg amt sh rm) s

/-- BIC, register-specified shift (41_data_processing R180). -/
def execBicRegShift (c : Cond) (sb : Bool) (rn rd rs : Reg) (sh : ShiftType) (rm : Reg) (s : State) : Answer :=
  dataProc .bic c sb rn rd (.regShift rs sh rm) s

/-- MVN, immediate form (41_data_processing R181). -/
def execMvnImm (c : Cond) (sb : Bool) (rn rd : Reg) (rot : BitVec 4) (imm : BitVec 8) (s : State) : Answer :=
  dataProc .mvn c sb rn rd (.imm rot imm) s

/-- MVN, register form (41_data_processing R181). -/
def execMvnReg (c : Cond) (sb : Bool) (rn rd : Reg) (amt : BitVec 5) (sh : ShiftType) (rm : Reg) (s : State) : Answer :=
  dataProc .mvn c sb rn rd (.reg amt sh rm) s

/-- MVN, register-specified shift (41_data_processing R181). -/
def execMvnRegShift (c : Cond) (sb : Bool) (rn rd rs : Reg) (sh : ShiftType) (rm : Reg) (s : State) : Answer :=
  dataProc .mvn c sb rn rd (.regShift rs sh rm) s

end Sys2Proof.Machine
end

