-- ==== Sys2Proof/Machine/Multiply.lean ====
section
/-!
DEFINITION. Multiply and long multiply (43_multiply).
-/

namespace Sys2Proof.Machine

/-- The restrictions on MUL and MLA; `named` are the registers other than Rd and Rm that it uses (43_multiply R212). -/
def multiplyRefusal (rd rm : Reg) (named : List Reg) : Option Refusal :=
  if rd = rm then some .mulRdEqRm
  else if 15#4 ∈ rd :: rm :: named then some .mulWithR15
  else none

/-- Rd written; with S, N and Z on the result, C free, V as it was (43_multiply R210, R213; log 7). -/
def State.setProduct (s : State) (sb : Bool) (rd : Reg) (v : Word) : State :=
  let t := s.setReg rd v
  if sb then { t with psr := t.psr.withFlags v (s.freeBit 0) s.psr.v }.drawn 1 else t

/-- MUL and MLA: `result` is what goes into Rd (43_multiply R210, R211). -/
def multiply (c : Cond) (sb : Bool) (rd rm : Reg) (named : List Reg) (result : State → Word) (s : State) : Answer :=
  instruction c (rd :: rm :: named) s fun s =>
    refuseIf (multiplyRefusal rd rm named) (.next (s.setProduct sb rd (result s)).advance)

/-- The restrictions on the long multiplies (43_multiply R222). -/
def longMultiplyRefusal (rh rl rs rm : Reg) : Option Refusal :=
  if 15#4 ∈ [rh, rl, rs, rm] then some .longMulWithR15
  else if rh = rl ∨ rh = rm ∨ rl = rm then some .longMulNotDistinct
  else none

/-- The exact product, with A the accumulator added, modulo 2^64 (43_multiply R217). -/
def State.longProduct (s : State) (signed accumulate : Bool) (rh rl rs rm : Reg) : BitVec 64 :=
  let p : Int :=
    if signed then (s.reg rm).toInt * (s.reg rs).toInt else ((s.reg rm).toNat * (s.reg rs).toNat : Nat)
  let a : Int := if accumulate then ((s.reg rh).toNat * 2 ^ 32 + (s.reg rl).toNat : Nat) else 0
  BitVec.ofInt 64 (p + a)

/-- Rl and Rh written; with S, N and Z on all 64 bits, C and V free (43_multiply R217, R223; log 7). -/
def State.setLongProduct (s : State) (sb : Bool) (rh rl : Reg) (r : BitVec 64) : State :=
  let t := (s.setReg rl (r.extractLsb' 0 32)).setReg rh (r.extractLsb' 32 32)
  if sb then
    { t with psr := { t.psr with n := r.msb, z := r == 0#64, c := s.freeBit 0, v := s.freeBit 1 } }.drawn 1
  else t

/-- `LongMultiply` (43_multiply R217). -/
def longMultiply (signed accumulate : Bool) (c : Cond) (sb : Bool) (rh rl rs rm : Reg) (s : State) : Answer :=
  instruction c [rh, rl, rs, rm] s fun s =>
    refuseIf (longMultiplyRefusal rh rl rs rm)
      (.next (s.setLongProduct sb rh rl (s.longProduct signed accumulate rh rl rs rm)).advance)

/-- MUL (43_multiply R210); the field Rn is ignored. The result is the product modulo 2^32. -/
def execMul (c : Cond) (sb : Bool) (rd _rn rs rm : Reg) (s : State) : Answer :=
  multiply c sb rd rm [rs] (fun s => s.reg rm * s.reg rs) s

/-- MLA (43_multiply R211). -/
def execMla (c : Cond) (sb : Bool) (rd rn rs rm : Reg) (s : State) : Answer :=
  multiply c sb rd rm [rs, rn] (fun s => s.reg rm * s.reg rs + s.reg rn) s

/-- UMULL (43_multiply R218). -/
def execUmull (c : Cond) (sb : Bool) (rh rl rs rm : Reg) (s : State) : Answer :=
  longMultiply false false c sb rh rl rs rm s

/-- UMLAL (43_multiply R219). -/
def execUmlal (c : Cond) (sb : Bool) (rh rl rs rm : Reg) (s : State) : Answer :=
  longMultiply false true c sb rh rl rs rm s

/-- SMULL (43_multiply R220). -/
def execSmull (c : Cond) (sb : Bool) (rh rl rs rm : Reg) (s : State) : Answer :=
  longMultiply true false c sb rh rl rs rm s

/-- SMLAL (43_multiply R221). -/
def execSmlal (c : Cond) (sb : Bool) (rh rl rs rm : Reg) (s : State) : Answer :=
  longMultiply true true c sb rh rl rs rm s

end Sys2Proof.Machine
end

