-- ==== Sys2Proof/Machine/System.lean ====
section
/-!
DEFINITION. The instructions that trap (46_software_interrupt R290, 60_exceptions R358) and the status register
transfers (49_status_register_transfer).
-/

namespace Sys2Proof.Machine

/-- SWI (46_software_interrupt R290): the comment field is not looked at. -/
def execSwi (c : Cond) (_comment : BitVec 24) (s : State) : Answer :=
  instruction c [] s (takeException .softwareInterrupt)

/-- The undefined instruction of every part (60_exceptions R358, item 1). -/
def execUndefined (c : Cond) (_hi : BitVec 20) (_lo : BitVec 4) (s : State) : Answer :=
  instruction c [] s (takeException .undefinedInstruction)

/-- The undefined instruction of ARM 2 (60_exceptions R358, item 2). -/
def execUndefinedArm2 (c : Cond) (_hi : BitVec 16) (_mid : BitVec 2) (_lo : BitVec 4) (s : State) : Answer :=
  instruction c [] s (takeException .undefinedInstruction)

/-- The PSR concerned, when it is an SPSR: the one of the current mode (49_status R330, 10_state R38). -/
def State.spsr (s : State) : Option SavedPsr := s.psr.mode.bank.map s.spsrs.read

/-- MRS (49_status R331): bits 27..8 and 5 are free values (log 7). -/
def execMrs (c : Cond) (spsr : Bool) (rd : Reg) (s : State) : Answer :=
  instruction c [rd] s fun s =>
    if rd = 15#4 then .refused .mrsRdR15
    else
      match (if spsr then s.spsr else some s.psr.save) with
      | none => .refused .spsrInUserMode
      | some q => .next ((s.drawn 1).setReg rd (q.word (Config.freeWord s.draws))).advance

/-- The CPSR written (49_status R332): the flags in every mode, the control bits in a privileged one. -/
def State.writeCpsr (s : State) (a : PsrField) (v : Word) : Except Stop State :=
  let p := if a.flags then s.psr.withTopFlags v else s.psr
  if a.control && s.privileged then
    match Mode.ofBits (field v 0 5) with
    | none => .error (.fault .undefinedMode)
    | some m =>
      if !s.mode26 && m.is26 && decide (2 ^ 26 ≤ (s.pc + 4#32).toNat) then .error (.refuse .pcOutOf26BitRange)
      else .ok { s with psr := { p with i := v.getLsbD 7, f := v.getLsbD 6, mode := m } }
  else .ok { s with psr := p }

/-- The SPSR of the current mode written (49_status R332). -/
def State.writeSpsr (s : State) (a : PsrField) (v : Word) : Except Stop State :=
  match s.psr.mode.bank with
  | none => .error (.refuse .spsrInUserMode)
  | some b => .ok { s with spsrs := s.spsrs.write b ((s.spsrs.read b).write a v) }

/-- MSR with the value `v` (49_status R332); the next instruction is fetched in the new mode (log 18). -/
def State.msr (s : State) (spsr : Bool) (a : PsrField) (v : Word) : Answer :=
  andThen s (if spsr then s.writeSpsr a v else s.writeCpsr a v) fun t => .next t.advance

/-- MSR, register form (49_status R332). -/
def execMsrReg (c : Cond) (spsr : Bool) (a : PsrField) (rm : Reg) (s : State) : Answer :=
  instruction c [rm] s fun s =>
    if rm = 15#4 then .refused .msrRmR15 else s.msr spsr a (s.reg rm)

/-- MSR, immediate form (49_status R332): no carry is produced. -/
def execMsrImm (c : Cond) (spsr : Bool) (a : PsrField) (rot : BitVec 4) (imm : BitVec 8) (s : State) : Answer :=
  instruction c [] s fun s => s.msr spsr a (immOperand rot imm s.psr.c).value

end Sys2Proof.Machine
end

