-- ==== Sys2Proof/Machine/Dispatch.lean ====
section
/-!
DEFINITION. One arm per instruction of spec/opcode_table.json, each the call of its meaning.
-/

namespace Sys2Proof.Machine

def exec (i : Instr) (s : State) : Host.Outcome State Fault Refusal :=
  match i with
  | .mul c sb rd rn rs rm => Sys2Proof.Machine.execMul c sb rd rn rs rm s
  | .mla c sb rd rn rs rm => Sys2Proof.Machine.execMla c sb rd rn rs rm s
  | .umull c sb rh rl rs rm => Sys2Proof.Machine.execUmull c sb rh rl rs rm s
  | .umlal c sb rh rl rs rm => Sys2Proof.Machine.execUmlal c sb rh rl rs rm s
  | .smull c sb rh rl rs rm => Sys2Proof.Machine.execSmull c sb rh rl rs rm s
  | .smlal c sb rh rl rs rm => Sys2Proof.Machine.execSmlal c sb rh rl rs rm s
  | .swp c rn rd rm => Sys2Proof.Machine.execSwp c rn rd rm s
  | .swpb c rn rd rm => Sys2Proof.Machine.execSwpb c rn rd rm s
  | .undefinedArm2 c hi mid lo => Sys2Proof.Machine.execUndefinedArm2 c hi mid lo s
  | .mrs c spsr rd => Sys2Proof.Machine.execMrs c spsr rd s
  | .msrReg c spsr a rm => Sys2Proof.Machine.execMsrReg c spsr a rm s
  | .msrImm c spsr a rot imm => Sys2Proof.Machine.execMsrImm c spsr a rot imm s
  | .tstpImm c rn rot imm => Sys2Proof.Machine.execTstpImm c rn rot imm s
  | .tstpReg c rn amt sh rm => Sys2Proof.Machine.execTstpReg c rn amt sh rm s
  | .tstpRegShift c rn rs sh rm => Sys2Proof.Machine.execTstpRegShift c rn rs sh rm s
  | .teqpImm c rn rot imm => Sys2Proof.Machine.execTeqpImm c rn rot imm s
  | .teqpReg c rn amt sh rm => Sys2Proof.Machine.execTeqpReg c rn amt sh rm s
  | .teqpRegShift c rn rs sh rm => Sys2Proof.Machine.execTeqpRegShift c rn rs sh rm s
  | .cmppImm c rn rot imm => Sys2Proof.Machine.execCmppImm c rn rot imm s
  | .cmppReg c rn amt sh rm => Sys2Proof.Machine.execCmppReg c rn amt sh rm s
  | .cmppRegShift c rn rs sh rm => Sys2Proof.Machine.execCmppRegShift c rn rs sh rm s
  | .cmnpImm c rn rot imm => Sys2Proof.Machine.execCmnpImm c rn rot imm s
  | .cmnpReg c rn amt sh rm => Sys2Proof.Machine.execCmnpReg c rn amt sh rm s
  | .cmnpRegShift c rn rs sh rm => Sys2Proof.Machine.execCmnpRegShift c rn rs sh rm s
  | .andImm c sb rn rd rot imm => Sys2Proof.Machine.execAndImm c sb rn rd rot imm s
  | .andReg c sb rn rd amt sh rm => Sys2Proof.Machine.execAndReg c sb rn rd amt sh rm s
  | .andRegShift c sb rn rd rs sh rm => Sys2Proof.Machine.execAndRegShift c sb rn rd rs sh rm s
  | .eorImm c sb rn rd rot imm => Sys2Proof.Machine.execEorImm c sb rn rd rot imm s
  | .eorReg c sb rn rd amt sh rm => Sys2Proof.Machine.execEorReg c sb rn rd amt sh rm s
  | .eorRegShift c sb rn rd rs sh rm => Sys2Proof.Machine.execEorRegShift c sb rn rd rs sh rm s
  | .subImm c sb rn rd rot imm => Sys2Proof.Machine.execSubImm c sb rn rd rot imm s
  | .subReg c sb rn rd amt sh rm => Sys2Proof.Machine.execSubReg c sb rn rd amt sh rm s
  | .subRegShift c sb rn rd rs sh rm => Sys2Proof.Machine.execSubRegShift c sb rn rd rs sh rm s
  | .rsbImm c sb rn rd rot imm => Sys2Proof.Machine.execRsbImm c sb rn rd rot imm s
  | .rsbReg c sb rn rd amt sh rm => Sys2Proof.Machine.execRsbReg c sb rn rd amt sh rm s
  | .rsbRegShift c sb rn rd rs sh rm => Sys2Proof.Machine.execRsbRegShift c sb rn rd rs sh rm s
  | .addImm c sb rn rd rot imm => Sys2Proof.Machine.execAddImm c sb rn rd rot imm s
  | .addReg c sb rn rd amt sh rm => Sys2Proof.Machine.execAddReg c sb rn rd amt sh rm s
  | .addRegShift c sb rn rd rs sh rm => Sys2Proof.Machine.execAddRegShift c sb rn rd rs sh rm s
  | .adcImm c sb rn rd rot imm => Sys2Proof.Machine.execAdcImm c sb rn rd rot imm s
  | .adcReg c sb rn rd amt sh rm => Sys2Proof.Machine.execAdcReg c sb rn rd amt sh rm s
  | .adcRegShift c sb rn rd rs sh rm => Sys2Proof.Machine.execAdcRegShift c sb rn rd rs sh rm s
  | .sbcImm c sb rn rd rot imm => Sys2Proof.Machine.execSbcImm c sb rn rd rot imm s
  | .sbcReg c sb rn rd amt sh rm => Sys2Proof.Machine.execSbcReg c sb rn rd amt sh rm s
  | .sbcRegShift c sb rn rd rs sh rm => Sys2Proof.Machine.execSbcRegShift c sb rn rd rs sh rm s
  | .rscImm c sb rn rd rot imm => Sys2Proof.Machine.execRscImm c sb rn rd rot imm s
  | .rscReg c sb rn rd amt sh rm => Sys2Proof.Machine.execRscReg c sb rn rd amt sh rm s
  | .rscRegShift c sb rn rd rs sh rm => Sys2Proof.Machine.execRscRegShift c sb rn rd rs sh rm s
  | .tstImm c rn rd rot imm => Sys2Proof.Machine.execTstImm c rn rd rot imm s
  | .tstReg c rn rd amt sh rm => Sys2Proof.Machine.execTstReg c rn rd amt sh rm s
  | .tstRegShift c rn rd rs sh rm => Sys2Proof.Machine.execTstRegShift c rn rd rs sh rm s
  | .teqImm c rn rd rot imm => Sys2Proof.Machine.execTeqImm c rn rd rot imm s
  | .teqReg c rn rd amt sh rm => Sys2Proof.Machine.execTeqReg c rn rd amt sh rm s
  | .teqRegShift c rn rd rs sh rm => Sys2Proof.Machine.execTeqRegShift c rn rd rs sh rm s
  | .cmpImm c rn rd rot imm => Sys2Proof.Machine.execCmpImm c rn rd rot imm s
  | .cmpReg c rn rd amt sh rm => Sys2Proof.Machine.execCmpReg c rn rd amt sh rm s
  | .cmpRegShift c rn rd rs sh rm => Sys2Proof.Machine.execCmpRegShift c rn rd rs sh rm s
  | .cmnImm c rn rd rot imm => Sys2Proof.Machine.execCmnImm c rn rd rot imm s
  | .cmnReg c rn rd amt sh rm => Sys2Proof.Machine.execCmnReg c rn rd amt sh rm s
  | .cmnRegShift c rn rd rs sh rm => Sys2Proof.Machine.execCmnRegShift c rn rd rs sh rm s
  | .orrImm c sb rn rd rot imm => Sys2Proof.Machine.execOrrImm c sb rn rd rot imm s
  | .orrReg c sb rn rd amt sh rm => Sys2Proof.Machine.execOrrReg c sb rn rd amt sh rm s
  | .orrRegShift c sb rn rd rs sh rm => Sys2Proof.Machine.execOrrRegShift c sb rn rd rs sh rm s
  | .movImm c sb rn rd rot imm => Sys2Proof.Machine.execMovImm c sb rn rd rot imm s
  | .movReg c sb rn rd amt sh rm => Sys2Proof.Machine.execMovReg c sb rn rd amt sh rm s
  | .movRegShift c sb rn rd rs sh rm => Sys2Proof.Machine.execMovRegShift c sb rn rd rs sh rm s
  | .bicImm c sb rn rd rot imm => Sys2Proof.Machine.execBicImm c sb rn rd rot imm s
  | .bicReg c sb rn rd amt sh rm => Sys2Proof.Machine.execBicReg c sb rn rd amt sh rm s
  | .bicRegShift c sb rn rd rs sh rm => Sys2Proof.Machine.execBicRegShift c sb rn rd rs sh rm s
  | .mvnImm c sb rn rd rot imm => Sys2Proof.Machine.execMvnImm c sb rn rd rot imm s
  | .mvnReg c sb rn rd amt sh rm => Sys2Proof.Machine.execMvnReg c sb rn rd amt sh rm s
  | .mvnRegShift c sb rn rd rs sh rm => Sys2Proof.Machine.execMvnRegShift c sb rn rd rs sh rm s
  | .ldrtImm c u rn rd off => Sys2Proof.Machine.execLdrtImm c u rn rd off s
  | .ldrtReg c u rn rd amt sh rm => Sys2Proof.Machine.execLdrtReg c u rn rd amt sh rm s
  | .strtImm c u rn rd off => Sys2Proof.Machine.execStrtImm c u rn rd off s
  | .strtReg c u rn rd amt sh rm => Sys2Proof.Machine.execStrtReg c u rn rd amt sh rm s
  | .ldrbtImm c u rn rd off => Sys2Proof.Machine.execLdrbtImm c u rn rd off s
  | .ldrbtReg c u rn rd amt sh rm => Sys2Proof.Machine.execLdrbtReg c u rn rd amt sh rm s
  | .strbtImm c u rn rd off => Sys2Proof.Machine.execStrbtImm c u rn rd off s
  | .strbtReg c u rn rd amt sh rm => Sys2Proof.Machine.execStrbtReg c u rn rd amt sh rm s
  | .ldrImm c p u w rn rd off => Sys2Proof.Machine.execLdrImm c p u w rn rd off s
  | .ldrReg c p u w rn rd amt sh rm => Sys2Proof.Machine.execLdrReg c p u w rn rd amt sh rm s
  | .strImm c p u w rn rd off => Sys2Proof.Machine.execStrImm c p u w rn rd off s
  | .strReg c p u w rn rd amt sh rm => Sys2Proof.Machine.execStrReg c p u w rn rd amt sh rm s
  | .ldrbImm c p u w rn rd off => Sys2Proof.Machine.execLdrbImm c p u w rn rd off s
  | .ldrbReg c p u w rn rd amt sh rm => Sys2Proof.Machine.execLdrbReg c p u w rn rd amt sh rm s
  | .strbImm c p u w rn rd off => Sys2Proof.Machine.execStrbImm c p u w rn rd off s
  | .strbReg c p u w rn rd amt sh rm => Sys2Proof.Machine.execStrbReg c p u w rn rd amt sh rm s
  | .undefined c hi lo => Sys2Proof.Machine.execUndefined c hi lo s
  | .ldmia c sb w rn list => Sys2Proof.Machine.execLdmia c sb w rn list s
  | .ldmib c sb w rn list => Sys2Proof.Machine.execLdmib c sb w rn list s
  | .ldmda c sb w rn list => Sys2Proof.Machine.execLdmda c sb w rn list s
  | .ldmdb c sb w rn list => Sys2Proof.Machine.execLdmdb c sb w rn list s
  | .stmia c sb w rn list => Sys2Proof.Machine.execStmia c sb w rn list s
  | .stmib c sb w rn list => Sys2Proof.Machine.execStmib c sb w rn list s
  | .stmda c sb w rn list => Sys2Proof.Machine.execStmda c sb w rn list s
  | .stmdb c sb w rn list => Sys2Proof.Machine.execStmdb c sb w rn list s
  | .b c off => Sys2Proof.Machine.execB c off s
  | .bl c off => Sys2Proof.Machine.execBl c off s
  | .ldc c p u n w rn crd cp off => Sys2Proof.Machine.execLdc c p u n w rn crd cp off s
  | .stc c p u n w rn crd cp off => Sys2Proof.Machine.execStc c p u n w rn crd cp off s
  | .cdp c op crn crd cp q crm => Sys2Proof.Machine.execCdp c op crn crd cp q crm s
  | .mrc c op crn rd cp q crm => Sys2Proof.Machine.execMrc c op crn rd cp q crm s
  | .mcr c op crn rd cp q crm => Sys2Proof.Machine.execMcr c op crn rd cp q crm s
  | .swi c comment => Sys2Proof.Machine.execSwi c comment s

end Sys2Proof.Machine
end

