-- ==== Sys2Proof/Machine/Cycle.lean ====
section
/-!
DEFINITION. One step of the machine: the inputs at the instruction boundary (60_exceptions R364), then fetch,
condition, decode and execution (40_condition_codes R141).
-/

namespace Sys2Proof.Machine

/-- No input asserted (60_exceptions R364). -/
def quiet : Inputs := { reset := false, fiq := false, irq := false }

/-- Steps 3 to 6 of 40_condition_codes R141 for the word fetched. A word that the part does not allocate does nothing
when its condition fails, and is refused when it passes (R141, 30_encoding R127). -/
def runWord (w : Word) (s : State) : Answer :=
  match decode s.cfg.variant w with
  | .ok i => exec i s
  | .error r => conditional (Cond.ofBits (field w 28 4)) s fun _ => .refused (.unallocated r)

/-- Steps 2 to 6 of 40_condition_codes R141, before the end of the run (92_eei_decisions D25; log 21). -/
def runInstruction (s : State) : Answer :=
  if s.cfg.endAddr = some s.pc then .fault .endOfRun
  else andThen s s.fetch fun w => runWord w s

/-- The state with the inputs of this boundary taken off. -/
def State.sampled (s : State) : State := { s with inputs := s.inputs.tail }

/-- One step (60_exceptions R364): reset, then FIQ if not disabled, then IRQ if not disabled, else the instruction. -/
def cycle (s : State) : Answer :=
  let i := s.inputs.headD quiet
  if i.reset then .next (resetEvent s.sampled)
  else if i.fiq && !s.psr.f then takeException .fiq s.sampled
  else if i.irq && !s.psr.i then takeException .irq s.sampled
  else runInstruction s.sampled

/-- The inputs with none asserted at the next boundary. -/
def quietNext : List Inputs → List Inputs
  | [] => []
  | _ :: rest => quiet :: rest

/-- The word `w` where the next step fetches, and what that fetch takes: no input asserted at the next boundary, the
word backed, not aborted, not stored by the run, and not the end of the run. -/
def State.placeWord (s : State) (w : Word) : State :=
  let a := s.pc.toNat
  { s with
    mem := Memory.writeBytes s.mem a (bytesOfWord w)
    stored := s.stored.filter fun b => b != a
    inputs := quietNext s.inputs
    cfg := { s.cfg with
      holes := s.cfg.holes.filter fun r => !r.holds a
      aborts := s.cfg.aborts.filter fun r => !r.hits a .word .fetch s.privileged
      endAddr := if s.cfg.endAddr = some s.pc then none else s.cfg.endAddr } }

/-- The part that reads the word: the one at hand, or ARM 2, in the 26-bit form of the mode, for a word that only
ARM 2 allocates (30_encoding R114; log 20). -/
def State.onReader (s : State) (w : Word) : State :=
  match decode s.cfg.variant w, decode .arm2 w with
  | .error _, .ok _ =>
    { s with cfg := { s.cfg with variant := .arm2 },
             psr := { s.psr with mode := Mode.ofR15 (s.psr.mode.bits.extractLsb' 0 2) },
             pc := s.pc &&& 0x03FFFFFC#32 }
  | _, _ => s

end Sys2Proof.Machine
end

