-- ==== Sys2Proof/Machine/Step.lean ====
section
/-!
DEFINITION. The step of the machine, and the placing of an instruction where it fetches.
-/

namespace Sys2Proof.Machine

/-- One step (60_exceptions R364, 40_condition_codes R141). -/
def step (s : State) : Host.Outcome State Fault Refusal := cycle s

/-- The state in which the next step runs the instruction whose `nbits` bits are `w`, the bits above them 0 (log 20). -/
def State.withFetchWord (s : State) (nbits w : Nat) : State :=
  let word : Word := BitVec.ofNat 32 (w % 2 ^ nbits)
  (s.onReader word).placeWord word

end Sys2Proof.Machine
end

