-- ==== Sys2Proof/Safety.lean ====
section
/-!
DEFINITION. What the statements say of states: the invariant of the machine, the words they use for "nothing else
changes", the families of instructions by their fields, and the operations of the spec's table in its own terms.
-/

namespace Sys2Proof.Machine

/-! ## The invariant -/

/-- The mode is one the part has: the modes with a 32-bit PC only with the 32-bit modes (10_state R35). -/
def State.modeFits (s : State) : Bool := s.cfg.variant.hasPsr32 || s.mode26

/-- `pc` is a multiple of 4, and below 2^26 in a 26-bit mode (10_state R27, R44). -/
def State.pcFits (s : State) : Bool := Word.aligned s.pc && (!s.mode26 || decide (s.pc.toNat < 2 ^ 26))

/-- Every listed address is in the address space (10_state R42). -/
def State.memFits (s : State) : Bool := s.mem.all fun x => decide (x.1 < 2 ^ s.cfg.variant.addrBits)

/-- Addresses strictly rise from `lo` on. -/
def addrsRise (lo : Nat) : List Nat → Bool
  | [] => true
  | a :: rest => decide (lo ≤ a) && addrsRise (a + 1) rest

/-- The words stored to are listed once each, rising, and are words of the address space (20_memory R90). -/
def State.storedFits (s : State) : Bool :=
  addrsRise 0 s.stored && s.stored.all fun a => decide (a % 4 = 0) && decide (a < 2 ^ s.cfg.variant.addrBits)

/-- What every state that a run reaches satisfies. -/
def State.Inv (s : State) : Bool :=
  s.modeFits && s.pcFits && Memory.wf s.mem && s.memFits && s.storedFits

/-! ## Frames -/

/-- One byte of memory (20_memory R74). -/
def State.byte (s : State) (a : Nat) : Byte := Memory.read s.mem a

/-- Every physical register but those that the mode of `s` sees under the names `ds` holds in `t` what it held. -/
def onlyRegs (s t : State) (ds : List Reg) : Prop :=
  ∀ p : PReg, (∀ d ∈ ds, s.psr.mode.preg d ≠ some p) → t.regs.read p = s.regs.read p

/-- The configuration, the saved PSRs, the coprocessors and the coming inputs are as they were. -/
def sameSystem (s t : State) : Prop :=
  t.cfg = s.cfg ∧ t.spsrs = s.spsrs ∧ t.cps = s.cps ∧ t.inputs = s.inputs

/-- Every byte of memory reads as it did, and no word was stored to. -/
def sameBytes (s t : State) : Prop := (∀ a, t.byte a = s.byte a) ∧ t.stored = s.stored

/-- Every byte reads as it did but the `n` from the address `a` up. -/
def onlyBytes (s t : State) (a : Word) (n : Nat) : Prop :=
  ∀ b : Nat, (b < a.toNat ∨ a.toNat + n ≤ b) → t.byte b = s.byte b

/-- The condition passes, and the hazard of 70_reset R412 does not forbid the registers named. -/
def State.ready (s : State) (c : Cond) (rs : List Reg) : Bool := condPassed c s.psr && !(s.hazard && anyBanked rs)

/-- No reset and no enabled interrupt at the coming boundary (60_exceptions R364). -/
def State.undisturbed (s : State) : Bool :=
  let i := s.inputs.headD quiet
  !i.reset && !(i.fiq && !s.psr.f) && !(i.irq && !s.psr.i)

/-- The instruction at `pc` can be fetched and is the word `w` (20_memory R72, R90). -/
def State.fetches (s : State) (w : Word) : Prop :=
  s.cfg.endAddr ≠ some s.pc ∧ s.access .word .fetch s.privileged s.pc = none ∧ s.pc.toNat ∉ s.stored ∧
    Memory.readWord s.mem s.pc.toNat = w

/-- What stops a data access: the address exception out of the range of the part, else the data abort of the memory
manager, else the fault of an address without memory (20_memory R74, R82, R77, R81). -/
def State.stopsAccess (s : State) (z : Size) (k : AccessKind) (privileged : Bool) (a : Word) (x : Stop) : Prop :=
  let outside := 2 ^ s.cfg.variant.addrBits ≤ a.toNat
  let aborted := s.cfg.aborts.any (fun r => r.hits a.toNat z k privileged) = true
  (x = .exc .addressException ∧ outside) ∨ (x = .exc .dataAbort ∧ ¬outside ∧ aborted) ∨
    (x = .fault .unbackedAddress ∧ ¬outside ∧ ¬aborted ∧ s.cfg.holes.any (fun r => r.holds a.toNat) = true)

/-! ## Families of instructions -/

/-- The four tests (41_data_processing R174 to R177). -/
inductive TestOp where
  | tst
  | teq
  | cmp
  | cmn
deriving DecidableEq, Repr

/-- What a test computes (41_data_processing R150). -/
def TestOp.op : TestOp → AluOp
  | .tst => .and
  | .teq => .eor
  | .cmp => .sub
  | .cmn => .add

/-- The data processing instruction of an operation and a second operand, three forms each (30_encoding R102). -/
def dpInstr (op : AluOp) (c : Cond) (sb : Bool) (rn rd : Reg) (o : Op2) : Instr :=
  match op, o with
  | .and, .imm rot imm => .andImm c sb rn rd rot imm
  | .and, .reg amt sh rm => .andReg c sb rn rd amt sh rm
  | .and, .regShift rs sh rm => .andRegShift c sb rn rd rs sh rm
  | .eor, .imm rot imm => .eorImm c sb rn rd rot imm
  | .eor, .reg amt sh rm => .eorReg c sb rn rd amt sh rm
  | .eor, .regShift rs sh rm => .eorRegShift c sb rn rd rs sh rm
  | .sub, .imm rot imm => .subImm c sb rn rd rot imm
  | .sub, .reg amt sh rm => .subReg c sb rn rd amt sh rm
  | .sub, .regShift rs sh rm => .subRegShift c sb rn rd rs sh rm
  | .rsb, .imm rot imm => .rsbImm c sb rn rd rot imm
  | .rsb, .reg amt sh rm => .rsbReg c sb rn rd amt sh rm
  | .rsb, .regShift rs sh rm => .rsbRegShift c sb rn rd rs sh rm
  | .add, .imm rot imm => .addImm c sb rn rd rot imm
  | .add, .reg amt sh rm => .addReg c sb rn rd amt sh rm
  | .add, .regShift rs sh rm => .addRegShift c sb rn rd rs sh rm
  | .adc, .imm rot imm => .adcImm c sb rn rd rot imm
  | .adc, .reg amt sh rm => .adcReg c sb rn rd amt sh rm
  | .adc, .regShift rs sh rm => .adcRegShift c sb rn rd rs sh rm
  | .sbc, .imm rot imm => .sbcImm c sb rn rd rot imm
  | .sbc, .reg amt sh rm => .sbcReg c sb rn rd amt sh rm
  | .sbc, .regShift rs sh rm => .sbcRegShift c sb rn rd rs sh rm
  | .rsc, .imm rot imm => .rscImm c sb rn rd rot imm
  | .rsc, .reg amt sh rm => .rscReg c sb rn rd amt sh rm
  | .rsc, .regShift rs sh rm => .rscRegShift c sb rn rd rs sh rm
  | .orr, .imm rot imm => .orrImm c sb rn rd rot imm
  | .orr, .reg amt sh rm => .orrReg c sb rn rd amt sh rm
  | .orr, .regShift rs sh rm => .orrRegShift c sb rn rd rs sh rm
  | .mov, .imm rot imm => .movImm c sb rn rd rot imm
  | .mov, .reg amt sh rm => .movReg c sb rn rd amt sh rm
  | .mov, .regShift rs sh rm => .movRegShift c sb rn rd rs sh rm
  | .bic, .imm rot imm => .bicImm c sb rn rd rot imm
  | .bic, .reg amt sh rm => .bicReg c sb rn rd amt sh rm
  | .bic, .regShift rs sh rm => .bicRegShift c sb rn rd rs sh rm
  | .mvn, .imm rot imm => .mvnImm c sb rn rd rot imm
  | .mvn, .reg amt sh rm => .mvnReg c sb rn rd amt sh rm
  | .mvn, .regShift rs sh rm => .mvnRegShift c sb rn rd rs sh rm

/-- The test instruction of a test and a second operand. -/
def testInstr (k : TestOp) (c : Cond) (rn rd : Reg) (o : Op2) : Instr :=
  match k, o with
  | .tst, .imm rot imm => .tstImm c rn rd rot imm
  | .tst, .reg amt sh rm => .tstReg c rn rd amt sh rm
  | .tst, .regShift rs sh rm => .tstRegShift c rn rd rs sh rm
  | .teq, .imm rot imm => .teqImm c rn rd rot imm
  | .teq, .reg amt sh rm => .teqReg c rn rd amt sh rm
  | .teq, .regShift rs sh rm => .teqRegShift c rn rd rs sh rm
  | .cmp, .imm rot imm => .cmpImm c rn rd rot imm
  | .cmp, .reg amt sh rm => .cmpReg c rn rd amt sh rm
  | .cmp, .regShift rs sh rm => .cmpRegShift c rn rd rs sh rm
  | .cmn, .imm rot imm => .cmnImm c rn rd rot imm
  | .cmn, .reg amt sh rm => .cmnReg c rn rd amt sh rm
  | .cmn, .regShift rs sh rm => .cmnRegShift c rn rd rs sh rm

/-- The P form of a test and a second operand. -/
def testPInstr (k : TestOp) (c : Cond) (rn : Reg) (o : Op2) : Instr :=
  match k, o with
  | .tst, .imm rot imm => .tstpImm c rn rot imm
  | .tst, .reg amt sh rm => .tstpReg c rn amt sh rm
  | .tst, .regShift rs sh rm => .tstpRegShift c rn rs sh rm
  | .teq, .imm rot imm => .teqpImm c rn rot imm
  | .teq, .reg amt sh rm => .teqpReg c rn amt sh rm
  | .teq, .regShift rs sh rm => .teqpRegShift c rn rs sh rm
  | .cmp, .imm rot imm => .cmppImm c rn rot imm
  | .cmp, .reg amt sh rm => .cmppReg c rn amt sh rm
  | .cmp, .regShift rs sh rm => .cmppRegShift c rn rs sh rm
  | .cmn, .imm rot imm => .cmnpImm c rn rot imm
  | .cmn, .reg amt sh rm => .cmnpReg c rn amt sh rm
  | .cmn, .regShift rs sh rm => .cmnpRegShift c rn rs sh rm

/-- The single data transfer with the bits L, B, P, U, W: the T form when P = 0 and W = 1
(44_single_data_transfer R230, R232). -/
def transferInstr (l : Bool) (z : Size) (c : Cond) (p u w : Bool) (rn rd : Reg) (o : Offset) : Instr :=
  match l, z, o with
  | true, .word, .imm off => if !p && w then .ldrtImm c u rn rd off else .ldrImm c p u w rn rd off
  | true, .word, .reg amt sh rm =>
    if !p && w then .ldrtReg c u rn rd amt sh rm else .ldrReg c p u w rn rd amt sh rm
  | true, .byte, .imm off => if !p && w then .ldrbtImm c u rn rd off else .ldrbImm c p u w rn rd off
  | true, .byte, .reg amt sh rm =>
    if !p && w then .ldrbtReg c u rn rd amt sh rm else .ldrbReg c p u w rn rd amt sh rm
  | false, .word, .imm off => if !p && w then .strtImm c u rn rd off else .strImm c p u w rn rd off
  | false, .word, .reg amt sh rm =>
    if !p && w then .strtReg c u rn rd amt sh rm else .strReg c p u w rn rd amt sh rm
  | false, .byte, .imm off => if !p && w then .strbtImm c u rn rd off else .strbImm c p u w rn rd off
  | false, .byte, .reg amt sh rm =>
    if !p && w then .strbtReg c u rn rd amt sh rm else .strbReg c p u w rn rd amt sh rm

/-- The block data transfer with the bits L, P, U (45_block_data_transfer R261). -/
def blockInstr (l p u : Bool) (c : Cond) (sb w : Bool) (rn : Reg) (list : BitVec 16) : Instr :=
  match l, p, u with
  | true, false, true => .ldmia c sb w rn list
  | true, true, true => .ldmib c sb w rn list
  | true, false, false => .ldmda c sb w rn list
  | true, true, false => .ldmdb c sb w rn list
  | false, false, true => .stmia c sb w rn list
  | false, true, true => .stmib c sb w rn list
  | false, false, false => .stmda c sb w rn list
  | false, true, false => .stmdb c sb w rn list

/-! ## The spec's table, in its own terms -/

/-- C as a word. -/
def carryWord (c : Bool) : Word := if c then 1#32 else 0#32

/-- "1-C" as a word. -/
def borrowWord (c : Bool) : Word := if c then 0#32 else 1#32

/-- The P-code column of the table of 41_data_processing R150: `a` is Rn, `b` is Op2. -/
def pcode (op : AluOp) (a b : Word) (c : Bool) : Word :=
  match op with
  | .and => a &&& b
  | .eor => a ^^^ b
  | .sub => a - b
  | .rsb => b - a
  | .add => a + b
  | .adc => a + b + carryWord c
  | .sbc => a - b - borrowWord c
  | .rsc => b - a - borrowWord c
  | .orr => a ||| b
  | .mov => b
  | .bic => a &&& ~~~b
  | .mvn => ~~~b

/-- C of an operation: the shifter's for a logical one, for a sum the carry out of bit 31, for a difference 1 exactly
when nothing was borrowed (41_data_processing R160, R164, R165). -/
def pcodeCarry (op : AluOp) (a b : Word) (c sc : Bool) : Bool :=
  match op with
  | .and | .eor | .orr | .mov | .bic | .mvn => sc
  | .add => decide (2 ^ 32 ≤ a.toNat + b.toNat)
  | .adc => decide (2 ^ 32 ≤ a.toNat + b.toNat + (carryWord c).toNat)
  | .sub => decide (b.toNat ≤ a.toNat)
  | .rsb => decide (a.toNat ≤ b.toNat)
  | .sbc => decide (b.toNat + (borrowWord c).toNat ≤ a.toNat)
  | .rsc => decide (a.toNat + (borrowWord c).toNat ≤ b.toNat)

/-- An exact signed result has no 32-bit representation. -/
def overflows (x : Int) : Bool := decide (x < -2 ^ 31 ∨ 2 ^ 31 ≤ x)

/-- V of an operation: unchanged by a logical one, else whether the exact signed result overflows
(41_data_processing R160, R164, R165). -/
def pcodeOverflow (op : AluOp) (a b : Word) (c v : Bool) : Bool :=
  match op with
  | .and | .eor | .orr | .mov | .bic | .mvn => v
  | .add => overflows (a.toInt + b.toInt)
  | .adc => overflows (a.toInt + b.toInt + (carryWord c).toNat)
  | .sub => overflows (a.toInt - b.toInt)
  | .rsb => overflows (b.toInt - a.toInt)
  | .sbc => overflows (a.toInt - b.toInt - (borrowWord c).toNat)
  | .rsc => overflows (b.toInt - a.toInt - (borrowWord c).toNat)

/-- The PSR with N and Z on a result, C and V as the table has them (41_data_processing R161). -/
def pcodePsr (op : AluOp) (a b : Word) (sc : Bool) (p : Psr) : Psr :=
  { p with n := (pcode op a b p.c).msb, z := pcode op a b p.c == 0#32,
           c := pcodeCarry op a b p.c sc, v := pcodeOverflow op a b p.c p.v }

/-- N, Z, C, V from bits 31..28 of a word, and in a privileged mode I, F and the 26-bit mode from bits 27, 26 and 1..0
(41_data_processing R186, R188). -/
def r15Psr (p : Psr) (w : Word) : Psr :=
  { n := w.getLsbD 31, z := w.getLsbD 30, c := w.getLsbD 29, v := w.getLsbD 28,
    i := if p.mode.privileged then w.getLsbD 27 else p.i,
    f := if p.mode.privileged then w.getLsbD 26 else p.f,
    mode := if p.mode.privileged then Mode.ofR15 (w.extractLsb' 0 2) else p.mode }

/-- R15 takes part in a register-specified shift (41_data_processing R157). -/
def shiftsWithR15 (o : Op2) (named : List Reg) : Bool :=
  match o with
  | .imm _ _ | .reg _ _ _ => false
  | .regShift rs _ rm => rs == 15#4 || rm == 15#4 || named.any (· == 15#4)

/-- The registers a data processing instruction reads as Rn. -/
def rnRead (op : AluOp) (rn : Reg) : List Reg := if op.readsRn then [rn] else []

/-- How many registers of the list are lower than `r`: where its word is (45_block_data_transfer R262). -/
def rankIn (list : BitVec 16) (r : Reg) : Nat := ((listRegs list).filter fun q => decide (q.toNat < r.toNat)).length

/-- The lowest address of a block transfer of `n` registers (the table of 45_block_data_transfer R262). -/
def blockLowest (p u : Bool) (b : Word) (n : Nat) : Word :=
  if u then (if p then b + 4#32 else b)
  else (if p then b - BitVec.ofNat 32 (4 * n) else b - BitVec.ofNat 32 (4 * n) + 4#32)

/-- What a block transfer of `n` registers writes back (the table of 45_block_data_transfer R262). -/
def blockAfter (u : Bool) (b : Word) (n : Nat) : Word :=
  if u then b + BitVec.ofNat 32 (4 * n) else b - BitVec.ofNat 32 (4 * n)

/-- The address of the word of register `r` in a block transfer (45_block_data_transfer R262). -/
def blockWordAddr (p u : Bool) (b : Word) (list : BitVec 16) (r : Reg) : Word :=
  blockLowest p u b (listRegs list).length + BitVec.ofNat 32 (4 * rankIn list r)

/-- The word at a word address (20_memory R71). -/
def State.wordAt (s : State) (a : Word) : Word :=
  s.byte (a.toNat + 3) ++ s.byte (a.toNat + 2) ++ s.byte (a.toNat + 1) ++ s.byte a.toNat

end Sys2Proof.Machine
end

