-- ==== Sys2Proof/Certificates/Slice0/Obligations.lean ====
section
/-!
DEFINITION. The statements for the provers, family by family of the spec's rules. A statement whose rule the spec marks
as its own decision says so, by the number D of 92_eei_decisions or the assumption log's.
-/

open Sys2Proof Sys2Proof.Machine

/-- O1. Decoding the word of any well-formed instruction gives the instruction back.

Decode and encode agree, for every instruction of every part and every value of its fields: decoding the encoding of
a well-formed instruction gives that instruction (30_encoding R102 to R114, R125). No bit of an encoding is dropped. -/
def Obligations.DecodeInvertsEncode : Prop :=
  ∀ (v : Variant) (i : Instr), WellFormed v i = true → decode v (encode i) = .ok i

/-- O2. Every word that decodes is the encoding of the well-formed instruction it decodes to.

The other direction: a word that a part decodes is the word of the instruction it decodes to, and that instruction is
well-formed on the part. So each word has at most one reading (30_encoding R125: "Every 28-bit pattern falls under
exactly one line"). -/
def Obligations.EncodeInvertsDecode : Prop :=
  ∀ (v : Variant) (w : Word) (i : Instr), decode v w = .ok i → WellFormed v i = true ∧ encode i = w

/-- O3. Words written out in the spec decode to the instructions it names.

A word of each family, as the spec's examples write it, decodes to the instruction it stands for. -/
def Obligations.SampleWordsDecode : Prop :=
  decode .arm6 0xE0130004#32 = .ok (.andReg .al true 3#4 0#4 0#5 .lsl 4#4) ∧
  decode .arm6 0x00910312#32 = .ok (.addRegShift .eq true 1#4 0#4 3#4 .lsl 2#4) ∧
  decode .arm6 0xE3A00000#32 = .ok (.movImm .al false 0#4 0#4 0#4 0#8) ∧
  decode .arm3 0xE33FF102#32 = .ok (.teqpImm .al 15#4 1#4 2#8) ∧
  decode .arm6 0xEB0003FE#32 = .ok (.bl .al 0x0003FE#24) ∧
  decode .arm6 0xE0203291#32 = .ok (.mla .al false 0#4 3#4 2#4 1#4) ∧
  decode .arm7dm 0xE0D10392#32 = .ok (.smull .al true 1#4 0#4 3#4 2#4) ∧
  decode .arm6 0xE7B10082#32 = .ok (.ldrReg .al true true true 1#4 0#4 1#5 .lsl 2#4) ∧
  decode .arm6 0xE4A10000#32 = .ok (.strtImm .al true 1#4 0#4 0#12) ∧
  decode .arm6 0xE8FD8010#32 = .ok (.ldmia .al true true 13#4 0x8010#16) ∧
  decode .arm6 0xE92D001E#32 = .ok (.stmdb .al false true 13#4 0x001E#16) ∧
  decode .arm6 0x1F0400C0#32 = .ok (.swi .ne 0x0400C0#24) ∧
  decode .arm6 0xEE19016F#32 = .ok (.cdp .al 1#4 9#4 0#4 1#4 3#3 15#4) ∧
  decode .arm6 0xEC032104#32 = .ok (.stc .al false false false false 3#4 2#4 1#4 4#8) ∧
  decode .arm6 0xE1420091#32 = .ok (.swpb .al 2#4 0#4 1#4) ∧
  decode .arm6 0xE328F20F#32 = .ok (.msrImm .al false .flg 2#4 0x0F#8)

/-- O4. The words a part rejects are exactly the unallocated encodings of the spec.

The decoder rejects a word exactly when 30_encoding R127 calls it unallocated: (a) the space of lines 1.2 and 1.5 of
R125, (b) line 2.2, (c) MSR with a reserved field selector; said by the masks of spec/opcode_table.json. (Derived: the
rule itself is marked a decision, D18.) -/
def Obligations.UnallocatedWordsExactly : Prop :=
  ∀ (v : Variant) (w : Word), (∃ r, decode v w = .error r) ↔
    let gap := w &&& 0x0E000090#32 = 0x00000090#32
    let test := w &&& 0x0D900000#32 = 0x01000000#32 ∧ ¬gap
    let mul := w &&& 0x0FC000F0#32 = 0x00000090#32
    let long := w &&& 0x0F8000F0#32 = 0x00800090#32
    let swp := w &&& 0x0FB00FF0#32 = 0x01000090#32
    let mrs := w &&& 0x0FBF0FFF#32 = 0x010F0000#32
    let msr := w &&& 0x0FB0FFF0#32 = 0x0120F000#32 ∨ w &&& 0x0FB0F000#32 = 0x0320F000#32
    let a := w.extractLsb' 16 4
    (gap ∧ ¬mul ∧ ¬(long ∧ v.hasLongMul = true) ∧ ¬(swp ∧ v.hasSwp = true) ∧
      ¬(v = .arm2 ∧ w &&& 0x0F000000#32 = 0x01000000#32)) ∨
    (test ∧ ¬(v.hasPsr32 = true ∧ (mrs ∨ msr))) ∨
    (test ∧ v.hasPsr32 = true ∧ msr ∧ a ≠ 1#4 ∧ a ≠ 8#4 ∧ a ≠ 9#4)

/-- O5. The two undefined patterns are the undefined instructions, and these take the trap.

xxxx011y yyyyyyyy yyyyyyyy yyy1yyyy is an undefined instruction on every part, xxxx0001 yyyyyyyy yyyyyyyy 1yy1yyyy on
ARM 2 only; on the later parts that space holds SWP and unallocated encodings. The undefined instructions take the trap of
60_exceptions R358. (The model's hazard bit, log 16, is cleared before it.) -/
def Obligations.UndefinedWordsDecode : Prop :=
  (∀ (v : Variant) (w : Word), w &&& 0x0E000010#32 = 0x06000010#32 →
    decode v w = .ok (.undefined (Cond.ofBits (w.extractLsb' 28 4)) (w.extractLsb' 5 20) (w.extractLsb' 0 4))) ∧
  (∀ (v : Variant) (w : Word), w &&& 0x0F000090#32 = 0x01000090#32 →
    (v = .arm2 → decode v w = .ok (.undefinedArm2 (Cond.ofBits (w.extractLsb' 28 4)) (w.extractLsb' 8 16)
      (w.extractLsb' 5 2) (w.extractLsb' 0 4))) ∧
    (v ≠ .arm2 → (∃ c rn rd rm, decode v w = .ok (.swp c rn rd rm) ∨ decode v w = .ok (.swpb c rn rd rm)) ∨
      ∃ r, decode v w = .error r)) ∧
  (∀ (i : Instr) (s : State), (∃ c hi lo, i = .undefined c hi lo) ∨ (∃ c hi mid lo, i = .undefinedArm2 c hi mid lo) →
    condPassed i.cond s.psr = true → exec i s = takeException .undefinedInstruction { s with hazard := false })

/-- O6. A step with no reset or enabled interrupt runs the instruction that the word at pc decodes to.

When no reset and no enabled interrupt is asserted, the word at `pc` can be fetched (20_memory R72, R90) and it decodes
to an instruction, that instruction is well-formed on the part and the step is `exec` of it, with the inputs of this
boundary taken off. `exec` itself tests the condition and moves `pc`. -/
def Obligations.StepRunsDecodedInstruction : Prop :=
  ∀ (s : State) (w : Word) (i : Instr), s.undisturbed = true → s.fetches w → decode s.cfg.variant w = .ok i →
    WellFormed s.cfg.variant i = true ∧ step s = exec i { s with inputs := s.inputs.tail }

/-- O7. A word whose condition fails is passed over, whatever its other bits.

A fetched word whose condition is false, an unallocated or undefined one included, changes no register, no flag and no
memory and takes no exception: the next state differs in `pc`, which goes to the successor, in the inputs consumed, and
in the model's hazard bit (log 16). (Of R143, its clock cycle is not said: timing is out of scope.) -/
def Obligations.FailedConditionStep : Prop :=
  ∀ (s : State) (w : Word), s.undisturbed = true → s.fetches w →
    condPassed (Cond.ofBits (w.extractLsb' 28 4)) s.psr = false →
    step s = .next { s with inputs := s.inputs.tail, pc := s.successor, hazard := false }

/-- O8. Every instruction whose condition fails only moves pc to its successor, and ends the hazard.

Each of the 105 instructions, when its condition fails: no register, flag or byte of memory changes, no exception is
taken, and the next instruction follows. That the instruction passed over ends the hazard of 70_reset R412 is the
model's reading (log 16). (Of R143, its clock cycle is not said: timing is out of scope.) -/
def Obligations.FailedConditionOfEveryInstruction : Prop :=
  ∀ (i : Instr) (s : State), condPassed i.cond s.psr = false →
    exec i s = .next { s with pc := s.successor, hazard := false }

/-- O9. Exclusive-OR of a condition with 1 is the opposite condition.

For every condition number and every PSR, the condition numbered `b` exclusive-or 1 passes exactly when the one
numbered `b` fails, AL and NV included. -/
def Obligations.OppositeConditions : Prop :=
  ∀ (b : BitVec 4) (p : Psr), condPassed (Cond.ofBits (b ^^^ 1#4)) p = !condPassed (Cond.ofBits b) p

/-- O10. After CMP the conditions are the signed and unsigned comparisons.

After `CMP a, b` in each of its three forms, EQ, HS, LO, HI, LS, GE, LT, GT and LE pass exactly when a = b and so on,
unsigned and signed (40_condition_codes R144, which the spec marks derived). With register-specified shifts R15 takes no
part (41_data_processing R157). -/
def Obligations.ComparisonConditions : Prop :=
  ∀ (c : Cond) (rn rd : Reg) (o : Op2) (s : State), s.ready c (rn :: o.regs) = true → shiftsWithR15 o [rn] = false →
    ∃ t, exec (testInstr .cmp c rn rd o) s = .next t ∧
      let a := s.reg rn
      let b := (s.shifterOperand o).value
      condPassed .eq t.psr = decide (a = b) ∧ condPassed .ne t.psr = decide (a ≠ b) ∧
      condPassed .cs t.psr = decide (b.toNat ≤ a.toNat) ∧ condPassed .cc t.psr = decide (a.toNat < b.toNat) ∧
      condPassed .hi t.psr = decide (b.toNat < a.toNat) ∧ condPassed .ls t.psr = decide (a.toNat ≤ b.toNat) ∧
      condPassed .ge t.psr = decide (b.toInt ≤ a.toInt) ∧ condPassed .lt t.psr = decide (a.toInt < b.toInt) ∧
      condPassed .gt t.psr = decide (b.toInt < a.toInt) ∧ condPassed .le t.psr = decide (a.toInt ≤ b.toInt)

/-- O11. The machine after reset satisfies the invariant, whatever the configuration.

The invariant of the machine (mode of the part, `pc` aligned and in range, memory in canonical form and inside the
address space, the stored words listed rising) holds right after reset. -/
def Obligations.InvariantAtReset : Prop :=
  (∀ g : Cfg, (State.powerOn g).Inv = true) ∧ State.reset.Inv = true

/-- O12. Every step keeps the invariant: legal mode, aligned pc in range, canonical memory.

From every state that satisfies the invariant, a step that answers a next state answers one that satisfies it: the mode
is one the part has, `pc` is a multiple of 4 and below 2^26 in a 26-bit mode, memory keeps its canonical form with every
listed address inside the address space, and the list of stored words keeps its form. -/
def Obligations.InvariantKeptByStep : Prop :=
  ∀ s t : State, s.Inv = true → step s = .next t → t.Inv = true

/-- O13. No step changes the configuration.

The configuration record of 00_scope R6 is fixed: every step, an instruction of any kind, an interrupt or the reset
event, leaves it as it was. -/
def Obligations.ConfigurationNeverChanges : Prop :=
  ∀ s t : State, step s = .next t → t.cfg = s.cfg

/-- O14. From user mode a step keeps I, F and the mode, or enters a privileged mode at a vector.

In user mode no instruction can change I, F or M, and user mode is left only by an exception or reset: after any step
from user mode either the mode, I and F are as they were, or the machine is in a privileged mode with I set and `pc` at
one of the eight vectors (the vectors but 8 are the spec's decision D5). -/
def Obligations.UserModeLeftOnlyByException : Prop :=
  ∀ s t : State, s.privileged = false → step s = .next t →
    (t.psr.mode = s.psr.mode ∧ t.psr.i = s.psr.i ∧ t.psr.f = s.psr.f) ∨
    (t.privileged = true ∧ t.psr.i = true ∧
      t.pc ∈ [0x00#32, 0x04#32, 0x08#32, 0x0C#32, 0x10#32, 0x14#32, 0x18#32, 0x1C#32])

/-- O15. On a part without the 32-bit modes no step but the reset event touches the SPSRs or the ABT and UND registers.

On ARM 2, ARM 2aS and ARM 3, which have 27 registers and no SPSR, no step but the reset event writes the fields that
only the later parts have, and none leaves the 26-bit modes. -/
def Obligations.OldPartsKeepAbtAndUnd : Prop :=
  ∀ s t : State, s.cfg.variant.hasPsr32 = false → s.mode26 = true → (s.inputs.headD quiet).reset = false →
    step s = .next t → t.mode26 = true ∧ t.spsrs = s.spsrs ∧ t.regs.abt = s.regs.abt ∧ t.regs.und = s.regs.und

/-- O16. Reset comes before FIQ, FIQ before IRQ, IRQ before the instruction, and a masked request waits.

What a step does by its inputs, in the order of 60_exceptions R364: the reset event, else the FIQ when F is 0, else the
IRQ when I is 0, else the instruction at `pc`. -/
def Obligations.InputPriority : Prop :=
  ∀ s : State,
    let i := s.inputs.headD quiet
    let t : State := { s with inputs := s.inputs.tail }
    (i.reset = true → step s = .next (resetEvent t)) ∧
    (i.reset = false → i.fiq = true → s.psr.f = false → step s = takeException .fiq t) ∧
    (i.reset = false → (i.fiq = true → s.psr.f = true) → i.irq = true → s.psr.i = false →
      step s = takeException .irq t) ∧
    (i.reset = false → (i.fiq = true → s.psr.f = true) → (i.irq = true → s.psr.i = true) → step s = runInstruction t)

/-- O17. The reset event: SVC mode, I and F set, pc 0, memory unchanged.

What 70_reset R400 gives after the reset event (the whole rule is the spec's decision D4). Of the flags, the registers
and the SPSRs nothing is said: they hold no value there, and free values in the model (log 8). -/
def Obligations.ResetEventState : Prop :=
  ∀ s : State, (s.inputs.headD quiet).reset = true →
    ∃ t, step s = .next t ∧ t.psr.mode = (if s.cfg.entry32 then .svc32 else .svc26) ∧ t.psr.i = true ∧ t.psr.f = true ∧
      t.pc = 0#32 ∧ sameBytes s t ∧ t.mem = s.mem ∧ t.cfg = s.cfg ∧ t.inputs = s.inputs.tail

/-- O18. What stops a fetch: the prefetch abort, no memory, a word stored to, the end of the run, an unallocated word.

An aborted fetch is the prefetch abort, whatever stands in memory there and before the condition is looked at. The
stops of the fetch: the end of the run (log 21), an address without memory, a word the run has stored to, and an
unallocated word whose condition passes. Each stop is the spec's own refusal (D12, D11, D18) or parameter (D25). -/
def Obligations.FetchStops : Prop :=
  ∀ s : State, s.undisturbed = true →
    let aborted := s.cfg.aborts.any (fun r => r.hits s.pc.toNat .word .fetch s.privileged)
    (s.cfg.endAddr = some s.pc → step s = .fault .endOfRun) ∧
    (s.cfg.endAddr ≠ some s.pc → aborted = true →
      step s = takeException .prefetchAbort { s with inputs := s.inputs.tail }) ∧
    (s.cfg.endAddr ≠ some s.pc → aborted = false → s.cfg.holes.any (fun r => r.holds s.pc.toNat) = true →
      step s = .fault .unbackedAddress) ∧
    (s.cfg.endAddr ≠ some s.pc → s.access .word .fetch s.privileged s.pc = none → s.pc.toNat ∈ s.stored →
      step s = .refused .fetchOfModifiedCode) ∧
    (∀ w r, s.fetches w → condPassed (Cond.ofBits (w.extractLsb' 28 4)) s.psr = true →
      decode s.cfg.variant w = .error r → step s = .refused (.unallocated r))

/-- O19. The vector, the saved address and the mode of each exception.

The three tables of 60_exceptions R352 to R354 (D5, D7, D8). -/
def Obligations.ExceptionTable : Prop :=
  [Exc.undefinedInstruction, .softwareInterrupt, .prefetchAbort, .dataAbort, .addressException, .irq, .fiq].map
      (fun e => (e.vector, e.returnOffset, e.mode false)) =
    [(0x04#32, 4#32, .svc26), (0x08#32, 4#32, .svc26), (0x0C#32, 4#32, .svc26), (0x10#32, 8#32, .svc26),
     (0x14#32, 8#32, .svc26), (0x18#32, 4#32, .irq26), (0x1C#32, 4#32, .fiq26)] ∧
  [Exc.undefinedInstruction, .softwareInterrupt, .prefetchAbort, .dataAbort, .irq, .fiq].map (fun e => e.mode true) =
    [.und32, .svc32, .abt32, .abt32, .irq32, .fiq32]

/-- O20. 32-bit exception entry: SPSR and R14 of the new mode, I, for FIQ F, pc at the vector, nothing else.

60_exceptions R355 in the 32-bit configuration, for every exception from every mode: what is saved, what changes, and
that no other register, no other SPSR and no byte of memory does (the masks are D6, the saved address D7). -/
def Obligations.EntryInto32BitModes : Prop :=
  ∀ (e : Exc) (s : State), s.cfg.entry32 = true →
    ∃ t, takeException e s = .next t ∧
      t.psr = { s.psr with mode := e.mode true, i := true, f := s.psr.f || decide (e = .fiq) } ∧
      t.reg 14#4 = s.pc + e.returnOffset ∧
      (∀ p, (e.mode true).preg 14#4 ≠ some p → t.regs.read p = s.regs.read p) ∧
      (∃ b, (e.mode true).bank = some b ∧ t.spsrs.read b = s.psr.save ∧ ∀ b', b' ≠ b → t.spsrs.read b' = s.spsrs.read b') ∧
      t.pc = e.vector ∧ sameBytes s t ∧ t.cfg = s.cfg ∧ t.cps = s.cps ∧ t.inputs = s.inputs

/-- O21. 26-bit exception entry: R14 of the new mode holds the old PSR and the return address; none from a 32-bit mode.

60_exceptions R355 without the 32-bit configuration: from a 26-bit mode the flags, I, F, the return address and the old
mode go into R14 of the new mode in the layout of R15; from a 32-bit mode it is refused (D8). On a part with SPSRs the one
of the new mode holds no value afterwards (log 14), so nothing is said of it. -/
def Obligations.EntryInto26BitModes : Prop :=
  ∀ (e : Exc) (s : State), s.cfg.entry32 = false →
    (s.mode26 = false → takeException e s = .refused .exceptionFrom32BitMode) ∧
    (s.mode26 = true → ∃ t, takeException e s = .next t ∧
      t.psr = { s.psr with mode := e.mode false, i := true, f := s.psr.f || decide (e = .fiq) } ∧
      (let w := t.reg 14#4
       w.getLsbD 31 = s.psr.n ∧ w.getLsbD 30 = s.psr.z ∧ w.getLsbD 29 = s.psr.c ∧ w.getLsbD 28 = s.psr.v ∧
         w.getLsbD 27 = s.psr.i ∧ w.getLsbD 26 = s.psr.f ∧
         w.extractLsb' 2 24 = (s.pc + e.returnOffset).extractLsb' 2 24 ∧ Mode.ofR15 (w.extractLsb' 0 2) = s.psr.mode) ∧
      (∀ p, (e.mode false).preg 14#4 ≠ some p → t.regs.read p = s.regs.read p) ∧
      (∃ b, (e.mode false).bank = some b ∧ ∀ b', (b' ≠ b ∨ s.cfg.variant.hasPsr32 = false) →
        t.spsrs.read b' = s.spsrs.read b') ∧
      t.pc = e.vector ∧ sameBytes s t ∧ t.cfg = s.cfg ∧ t.cps = s.cps ∧ t.inputs = s.inputs)

/-- O22. SWI then MOVS PC,R14 restores the whole PSR and goes on after the SWI, wherever its return address fits.

A software interrupt and the return `MOVS PC,R14` together (60_exceptions R370): flags, I, F and the mode, and with it
the register bank, are as before, the next instruction is the one after the SWI, and of the registers only R14_svc has
changed. It holds in the 26-bit configuration from the 26-bit modes (from the 32-bit modes the SWI is refused there,
`SoftwareInterruptEntry`) and in the 32-bit configuration from every mode, but for a SWI in the last word of the 26-bit
space from a 26-bit mode, whose return address is out of range (log 19). -/
def Obligations.SwiThenReturn : Prop :=
  ∀ (c : Cond) (k : BitVec 24) (rn : Reg) (s : State), condPassed c s.psr = true → s.pcFits = true →
    (s.cfg.entry32 = true → s.mode26 = true → s.pc.toNat + 4 < 2 ^ 26) →
    (s.cfg.entry32 = false → s.mode26 = true) →
    ∃ t u, exec (.swi c k) s = .next t ∧ exec (.movReg .al true rn 15#4 0#5 .lsl 14#4) t = .next u ∧
      t.privileged = true ∧ u.psr = s.psr ∧ u.pc = s.successor ∧
      (∀ p, p ≠ .svc 1 → u.regs.read p = s.regs.read p) ∧ sameBytes s u ∧ u.cfg = s.cfg ∧ u.cps = s.cps

/-- O23. SWI saves the status and the address after it, enters SVC mode with I set, and goes to 8.

The two pseudocodes of 46_software_interrupt R290, with their frame: no memory is written and no other register
changes. That the address saved is `pc + 4` is the spec's decision D7. -/
def Obligations.SoftwareInterruptEntry : Prop :=
  ∀ (c : Cond) (k : BitVec 24) (s : State), condPassed c s.psr = true →
    (s.cfg.entry32 = true → ∃ t, exec (.swi c k) s = .next t ∧ t.spsrs.svc = s.psr.save ∧
      t.regs.read (.svc 1) = s.pc + 4#32 ∧ t.psr = { s.psr with mode := .svc32, i := true } ∧ t.pc = 8#32 ∧
      (∀ p, p ≠ .svc 1 → t.regs.read p = s.regs.read p) ∧ sameBytes s t) ∧
    (s.cfg.entry32 = false → s.mode26 = true → ∃ t, exec (.swi c k) s = .next t ∧
      t.regs.read (.svc 1) = s.r15With (s.pc + 4#32) ∧ t.psr = { s.psr with mode := .svc26, i := true } ∧ t.pc = 8#32 ∧
      (∀ p, p ≠ .svc 1 → t.regs.read p = s.regs.read p) ∧ sameBytes s t) ∧
    (s.cfg.entry32 = false → s.mode26 = false → exec (.swi c k) s = .refused .exceptionFrom32BitMode)

/-- O24. The undefined instructions trap: UND mode or SVC mode, R14 the address after, vector 4.

UNDEFINED and UNDEFINED_ARM2 take the undefined instruction trap (60_exceptions R358): its effect is this entry. The
vector and the saved address are the spec's decisions D5 and D7. -/
def Obligations.UndefinedInstructionEntry : Prop :=
  ∀ (i : Instr) (s : State), (∃ c hi lo, i = .undefined c hi lo) ∨ (∃ c hi mid lo, i = .undefinedArm2 c hi mid lo) →
    condPassed i.cond s.psr = true →
    (s.cfg.entry32 = true → ∃ t, exec i s = .next t ∧ t.spsrs.und = s.psr.save ∧ t.regs.read (.und 1) = s.pc + 4#32 ∧
      t.psr = { s.psr with mode := .und32, i := true } ∧ t.pc = 4#32 ∧
      (∀ p, p ≠ .und 1 → t.regs.read p = s.regs.read p) ∧ sameBytes s t) ∧
    (s.cfg.entry32 = false → s.mode26 = true → ∃ t, exec i s = .next t ∧
      t.regs.read (.svc 1) = s.r15With (s.pc + 4#32) ∧ t.psr = { s.psr with mode := .svc26, i := true } ∧ t.pc = 4#32 ∧
      (∀ p, p ≠ .svc 1 → t.regs.read p = s.regs.read p) ∧ sameBytes s t) ∧
    (s.cfg.entry32 = false → s.mode26 = false → exec i s = .refused .exceptionFrom32BitMode)

/-- O25. The twelve operations that write Rd: result and flags as the spec table has them, and nothing else.

AND, EOR, SUB, RSB, ADD, ADC, SBC, RSC, ORR, MOV, BIC and MVN in their three forms, with Rd other than R15: Rd gets the
P-code result of the table of 41_data_processing R150; with S, N and Z are set on it, a logical operation takes C from
the shifter and leaves V, an arithmetic one has C and V of the exact sum or difference (that C after a difference is "no
borrow" and V signed overflow is derived there, R160). Every other register, the rest of the PSR, every special register
and every byte of memory is unchanged. MOV and MVN read no Rn, so R15 in their Rn field beside a register-specified shift
is no ground of R157 (the model's reading, log 30). -/
def Obligations.DataProcessingResult : Prop :=
  ∀ (op : AluOp) (c : Cond) (sb : Bool) (rn rd : Reg) (o : Op2) (s : State),
    s.ready c (rd :: rnRead op rn ++ o.regs) = true → rd ≠ 15#4 → shiftsWithR15 o (rnRead op rn) = false →
    ∃ t, exec (dpInstr op c sb rn rd o) s = .next t ∧
      let b := (s.shifterOperand o).value
      let sc := (s.shifterOperand o).carry
      t.reg rd = pcode op (s.reg rn) b s.psr.c ∧ onlyRegs s t [rd] ∧
      t.psr = (if sb then pcodePsr op (s.reg rn) b sc s.psr else s.psr) ∧
      t.pc = s.successor ∧ t.hazard = false ∧ sameSystem s t ∧ sameBytes s t

/-- O26. TST, TEQ, CMP and CMN set the flags on the result and write nothing else.

The four tests in their three forms: the flags are those of AND, EOR, SUB and ADD (41_data_processing R174 to R177),
the Rd field is ignored, and no register, no special register and no byte of memory changes. -/
def Obligations.TestResult : Prop :=
  ∀ (k : TestOp) (c : Cond) (rn rd : Reg) (o : Op2) (s : State), s.ready c (rn :: o.regs) = true →
    shiftsWithR15 o [rn] = false →
    exec (testInstr k c rn rd o) s =
      .next { s with psr := pcodePsr k.op (s.reg rn) (s.shifterOperand o).value (s.shifterOperand o).carry s.psr,
                     pc := s.successor, hazard := false }

/-- O27. TSTP, TEQP, CMPP and CMNP in a 26-bit mode write the flags, and in a privileged mode I, F and the mode.

The P forms in a 26-bit mode: N, Z, C, V are bits 31..28 of the result, and in a privileged mode I, F and M[1:0] are its
bits 27, 26 and 1..0. `pc` goes on; no register, no special register and no byte of memory changes. A change of mode
starts the one-instruction hazard of 70_reset R412 (D41). -/
def Obligations.PFormWritesPsr : Prop :=
  ∀ (k : TestOp) (c : Cond) (rn : Reg) (o : Op2) (s : State), s.ready c (rn :: o.regs) = true → s.mode26 = true →
    shiftsWithR15 o [rn] = false →
    exec (testPInstr k c rn o) s =
      (let p := r15Psr s.psr (pcode k.op (s.reg rn) (s.shifterOperand o).value s.psr.c)
       .next { s with psr := p, pc := s.successor, hazard := decide (p.mode ≠ s.psr.mode) })

/-- O28. The P forms are refused in a 32-bit mode.

TSTP, TEQP, CMPP and CMNP "no longer work" in a 32-bit mode (41_data_processing R187, D17). -/
def Obligations.PFormRefusedIn32BitModes : Prop :=
  ∀ (k : TestOp) (c : Cond) (rn : Reg) (o : Op2) (s : State), s.ready c (rn :: o.regs) = true → s.mode26 = false →
    exec (testPInstr k c rn o) s = .refused .pFormIn32BitMode

/-- O29. Rd = R15 in a 26-bit mode: a jump, and with S the PSR from the result.

The twelve operations with Rd = R15 in a 26-bit mode: `pc` gets bits 25..2 of the result; with S the flags come from its
bits 31..28, and in a privileged mode I, F and the mode from bits 27, 26 and 1..0. Nothing else changes. (Derived: the
rule is recovered, D34. MOV and MVN with R15 in the Rn field and a register-specified shift are not refused: the model's
reading, log 30.) -/
def Obligations.WriteToR15In26BitModes : Prop :=
  ∀ (op : AluOp) (c : Cond) (sb : Bool) (rn : Reg) (o : Op2) (s : State),
    s.ready c (rnRead op rn ++ o.regs) = true → s.mode26 = true → shiftsWithR15 o (rnRead op rn) = false →
    exec (dpInstr op c sb rn 15#4 o) s =
      (let r := pcode op (s.reg rn) (s.shifterOperand o).value s.psr.c
       .next { s with pc := r &&& 0x03FFFFFC#32, psr := if sb then r15Psr s.psr r else s.psr, hazard := false })

/-- O30. Rd = R15 in a 32-bit mode: a jump, and with S the SPSR copied to the CPSR, or a stop where there is none.

The twelve operations with Rd = R15 in a 32-bit mode: all bits of `pc` but the low two; with S the SPSR of the mode is
copied to the CPSR. In user mode with S it is refused, and so is a restored 26-bit mode with the new `pc` out of its range
(D14). Two readings are the model's: a saved mode number that is not defined is the fault that 10_state R37 gives a write
of it (log 25), and MOV and MVN with R15 in the Rn field and a register-specified shift are not refused (log 30). -/
def Obligations.WriteToR15In32BitModes : Prop :=
  ∀ (op : AluOp) (c : Cond) (rn : Reg) (o : Op2) (s : State),
    s.ready c (rnRead op rn ++ o.regs) = true → s.mode26 = false → shiftsWithR15 o (rnRead op rn) = false →
    let r := pcode op (s.reg rn) (s.shifterOperand o).value s.psr.c &&& 0xFFFFFFFC#32
    exec (dpInstr op c false rn 15#4 o) s = .next { s with pc := r, hazard := false } ∧
    (s.privileged = false → exec (dpInstr op c true rn 15#4 o) s = .refused .statusRestoreInUser32) ∧
    (∀ b, s.psr.mode.bank = some b →
      let q := s.spsrs.read b
      (Mode.ofBits q.m = none → exec (dpInstr op c true rn 15#4 o) s = .fault .undefinedMode) ∧
      (∀ m, Mode.ofBits q.m = some m →
        (m.is26 = true ∧ 2 ^ 26 ≤ r.toNat → exec (dpInstr op c true rn 15#4 o) s = .refused .pcOutOf26BitRange) ∧
        (¬(m.is26 = true ∧ 2 ^ 26 ≤ r.toNat) → exec (dpInstr op c true rn 15#4 o) s =
          .next { s with pc := r, hazard := false,
                         psr := { n := q.n, z := q.z, c := q.c, v := q.v, i := q.i, f := q.f, mode := m } })))

/-- O31. R15 with a register-specified shift is refused.

When Rc, Rm or the Rn that the operation reads is R15 and the shift amount is in a register, the instruction is refused
(41_data_processing R157, D24). MOV and MVN read no Rn (log 30). -/
def Obligations.R15WithRegisterShiftRefused : Prop :=
  (∀ (op : AluOp) (c : Cond) (sb : Bool) (rn rd : Reg) (o : Op2) (s : State),
    s.ready c (rd :: rnRead op rn ++ o.regs) = true → shiftsWithR15 o (rnRead op rn) = true →
    exec (dpInstr op c sb rn rd o) s = .refused .r15WithRegisterShift) ∧
  (∀ (k : TestOp) (c : Cond) (rn rd : Reg) (o : Op2) (s : State), s.ready c (rn :: o.regs) = true →
    shiftsWithR15 o [rn] = true →
    exec (testInstr k c rn rd o) s = .refused .r15WithRegisterShift ∧
    (s.mode26 = true → exec (testPInstr k c rn o) s = .refused .r15WithRegisterShift))

/-- O32. The four shifts by any amount, bit by bit, and the carry as the last bit shifted out.

LSL, LSR, ASR and ROR by an amount that is taken as it is: no shift leaves value and carry; otherwise each bit of the
result is the bit of the operand that the meaning of the shift names (0 shifted in, the sign for ASR, around for ROR)
and the carry is the last bit shifted out, 0 when that lies outside the word (amounts over 31 are derived there). -/
def Obligations.ShiftsBitByBit : Prop :=
  ∀ (v : Word) (n : Nat) (c : Bool),
    (∀ sh, shiftBy sh v 0 c = ⟨v, c⟩) ∧
    (0 < n →
      (∀ j < 32, (shiftBy .lsl v n c).value.getLsbD j = (decide (n ≤ j) && v.getLsbD (j - n))) ∧
      (shiftBy .lsl v n c).carry = (decide (n ≤ 32) && v.getLsbD (32 - n)) ∧
      (∀ j < 32, (shiftBy .lsr v n c).value.getLsbD j = v.getLsbD (j + n)) ∧
      (shiftBy .lsr v n c).carry = v.getLsbD (n - 1) ∧
      (∀ j < 32, (shiftBy .asr v n c).value.getLsbD j = v.getLsbD (min (j + n) 31)) ∧
      (shiftBy .asr v n c).carry = v.getLsbD (min (n - 1) 31) ∧
      (∀ j < 32, (shiftBy .ror v n c).value.getLsbD j = v.getLsbD ((j + n) % 32)) ∧
      (shiftBy .ror v n c).carry = v.getLsbD ((n + 31) % 32))

/-- O33. A constant 0 encodes LSR #32, ASR #32 and RRX; a register amount is its low byte; immediates are rotated by 2r.

The three forms of the second operand (41_data_processing R151, R156 to R158). -/
def Obligations.ConstantShiftsAndImmediates : Prop :=
  (∀ (v : Word) (amt : BitVec 5) (c : Bool), amt ≠ 0#5 → ∀ sh, shiftConst sh v amt c = shiftBy sh v amt.toNat c) ∧
  (∀ (v : Word) (c : Bool), shiftConst .lsl v 0#5 c = ⟨v, c⟩ ∧ shiftConst .lsr v 0#5 c = shiftBy .lsr v 32 c ∧
    shiftConst .asr v 0#5 c = shiftBy .asr v 32 c ∧
    (shiftConst .ror v 0#5 c).carry = v.getLsbD 0 ∧
    (∀ j < 32, (shiftConst .ror v 0#5 c).value.getLsbD j = if j = 31 then c else v.getLsbD (j + 1))) ∧
  (∀ (s : State) (rs rm : Reg) (sh : ShiftType), s.shifterOperand (.regShift rs sh rm) =
    shiftBy sh (s.rmValue rm) ((s.reg rs).toNat % 256) s.psr.c) ∧
  (∀ (s : State) (rot : BitVec 4) (imm : BitVec 8),
    (∀ j < 32, (s.shifterOperand (.imm rot imm)).value.getLsbD j = imm.getLsbD ((j + 2 * rot.toNat) % 32)) ∧
    (s.shifterOperand (.imm rot imm)).carry =
      if rot = 0#4 then s.psr.c else (s.shifterOperand (.imm rot imm)).value.getLsbD 31)

/-- O34. What an instruction reads from R15: pc + 8, and as a shifted operand of a 26-bit mode the PSR too.

R15 as an operand (10_state R28): the address of the instruction plus 8; in a 26-bit mode Rn reads the PSR positions as
zero and Rm with a constant shift reads them (D34). -/
def Obligations.R15Reads : Prop :=
  ∀ s : State,
    (s.mode26 = false → s.reg 15#4 = s.pc + 8#32 ∧ s.rmValue 15#4 = s.pc + 8#32) ∧
    (s.mode26 = true → s.reg 15#4 = (s.pc + 8#32) &&& 0x03FFFFFC#32 ∧
      s.rmValue 15#4 &&& 0x03FFFFFC#32 = (s.pc + 8#32) &&& 0x03FFFFFC#32 ∧
      (s.rmValue 15#4).getLsbD 31 = s.psr.n ∧ (s.rmValue 15#4).getLsbD 30 = s.psr.z ∧
      (s.rmValue 15#4).getLsbD 29 = s.psr.c ∧ (s.rmValue 15#4).getLsbD 28 = s.psr.v ∧
      (s.rmValue 15#4).getLsbD 27 = s.psr.i ∧ (s.rmValue 15#4).getLsbD 26 = s.psr.f ∧
      Mode.ofR15 ((s.rmValue 15#4).extractLsb' 0 2) = s.psr.mode) ∧
    ∀ rm, rm ≠ 15#4 → s.rmValue rm = s.reg rm

/-- O35. B jumps to its own address plus 8 plus four times the offset, and changes nothing else.

B (42_branch R200, R201): the target as exact arithmetic, modulo 2^26 in a 26-bit mode and 2^32 in a 32-bit mode (D14).
Only `pc` changes. -/
def Obligations.BranchResult : Prop :=
  ∀ (c : Cond) (off : BitVec 24) (s : State), condPassed c s.psr = true →
    ∃ t, exec (.b c off) s = .next t ∧ t = { s with pc := t.pc, hazard := false } ∧
      (t.pc.toNat : Int) = ((s.pc.toNat : Int) + 8 + 4 * off.toInt) % (if s.mode26 then 2 ^ 26 else 2 ^ 32)

/-- O36. BL leaves the address after it, in a 26-bit mode with the PSR, in R14 and jumps.

BL (42_branch R202): R14 of the current mode gets the address of the following instruction, in a 26-bit mode with the
PSR around it (90_conflicts C6); the target is that of B. No other register, no flag and no byte of memory changes. -/
def Obligations.BranchWithLinkResult : Prop :=
  ∀ (c : Cond) (off : BitVec 24) (s : State), s.ready c [14#4] = true →
    ∃ t, exec (.bl c off) s = .next t ∧ onlyRegs s t [14#4] ∧ t.psr = s.psr ∧ t.hazard = false ∧
      sameSystem s t ∧ sameBytes s t ∧
      (s.mode26 = false → t.reg 14#4 = s.pc + 4#32) ∧
      (s.mode26 = true →
        let w := t.reg 14#4
        w.extractLsb' 2 24 = (s.pc + 4#32).extractLsb' 2 24 ∧ w.getLsbD 31 = s.psr.n ∧ w.getLsbD 30 = s.psr.z ∧
          w.getLsbD 29 = s.psr.c ∧ w.getLsbD 28 = s.psr.v ∧ w.getLsbD 27 = s.psr.i ∧ w.getLsbD 26 = s.psr.f ∧
          Mode.ofR15 (w.extractLsb' 0 2) = s.psr.mode) ∧
      (t.pc.toNat : Int) = ((s.pc.toNat : Int) + 8 + 4 * off.toInt) % (if s.mode26 then 2 ^ 26 else 2 ^ 32)

/-- O37. MUL and MLA: the product, plus Rn for MLA, modulo 2^32; with S N and Z on it, C free, V as it was.

MUL and MLA with the operands that 43_multiply R212 admits. With S, C is a free value (`s.freeBit 0`, of which nothing
can be proved): the statement holds whatever it is (log 7). Every other register, special register and byte of memory is
unchanged. -/
def Obligations.MultiplyResult : Prop :=
  ∀ (c : Cond) (sb : Bool) (rd rn rs rm : Reg) (s : State), rd ≠ rm → rd ≠ 15#4 → rs ≠ 15#4 → rm ≠ 15#4 →
    (s.ready c [rd, rm, rs] = true → ∃ t, exec (.mul c sb rd rn rs rm) s = .next t ∧
      (t.reg rd).toNat = (s.reg rm).toNat * (s.reg rs).toNat % 2 ^ 32 ∧ onlyRegs s t [rd] ∧
      t.psr = (if sb then { s.psr with n := (t.reg rd).msb, z := t.reg rd == 0#32, c := s.freeBit 0 } else s.psr) ∧
      t.pc = s.successor ∧ t.hazard = false ∧ sameSystem s t ∧ sameBytes s t) ∧
    (rn ≠ 15#4 → s.ready c [rd, rm, rs, rn] = true → ∃ t, exec (.mla c sb rd rn rs rm) s = .next t ∧
      (t.reg rd).toNat = ((s.reg rm).toNat * (s.reg rs).toNat + (s.reg rn).toNat) % 2 ^ 32 ∧ onlyRegs s t [rd] ∧
      t.psr = (if sb then { s.psr with n := (t.reg rd).msb, z := t.reg rd == 0#32, c := s.freeBit 0 } else s.psr) ∧
      t.pc = s.successor ∧ t.hazard = false ∧ sameSystem s t ∧ sameBytes s t)

/-- O38. The long multiplies: the 64-bit product, with A added to Rh:Rl, and with S the flags on all 64 bits.

UMULL, UMLAL, SMULL and SMLAL with the registers that 43_multiply R222 admits: Rh and Rl together hold the exact product,
plus the accumulator with A, modulo 2^64. With S, N and Z are set on all 64 bits and C and V are free values (log 7). -/
def Obligations.LongMultiplyResult : Prop :=
  ∀ (signed accumulate : Bool) (c : Cond) (sb : Bool) (rh rl rs rm : Reg) (s : State),
    15#4 ∉ [rh, rl, rs, rm] → rh ≠ rl → rh ≠ rm → rl ≠ rm → s.ready c [rh, rl, rs, rm] = true →
    ∃ t, exec (match signed, accumulate with
        | false, false => .umull c sb rh rl rs rm
        | false, true => .umlal c sb rh rl rs rm
        | true, false => .smull c sb rh rl rs rm
        | true, true => .smlal c sb rh rl rs rm) s = .next t ∧
      let r := t.reg rh ++ t.reg rl
      (r.toNat : Int) =
        ((if signed then (s.reg rm).toInt * (s.reg rs).toInt else ((s.reg rm).toNat : Int) * ((s.reg rs).toNat : Int)) +
          (if accumulate then ((s.reg rh).toNat : Int) * 2 ^ 32 + ((s.reg rl).toNat : Int) else 0)) % 2 ^ 64 ∧
      onlyRegs s t [rh, rl] ∧
      t.psr = (if sb then { s.psr with n := r.msb, z := r == 0#64, c := s.freeBit 0, v := s.freeBit 1 } else s.psr) ∧
      t.pc = s.successor ∧ t.hazard = false ∧ sameSystem s t ∧ sameBytes s t

/-- O39. MUL and MLA with Rd = Rm or R15, and the long multiplies with R15 or registers not distinct, are refused.

The restrictions of 43_multiply R212 and R222 ("should not"), each a refusal by the spec's decision D17. -/
def Obligations.MultiplyRestrictions : Prop :=
  (∀ (c : Cond) (sb : Bool) (rd rn rs rm : Reg) (s : State),
    (s.ready c [rd, rm, rs] = true → rd = rm → exec (.mul c sb rd rn rs rm) s = .refused .mulRdEqRm) ∧
    (s.ready c [rd, rm, rs] = true → rd ≠ rm → 15#4 ∈ [rd, rm, rs] → exec (.mul c sb rd rn rs rm) s = .refused .mulWithR15) ∧
    (s.ready c [rd, rm, rs, rn] = true → rd = rm → exec (.mla c sb rd rn rs rm) s = .refused .mulRdEqRm) ∧
    (s.ready c [rd, rm, rs, rn] = true → rd ≠ rm → 15#4 ∈ [rd, rm, rs, rn] →
      exec (.mla c sb rd rn rs rm) s = .refused .mulWithR15)) ∧
  (∀ (i : Instr) (c : Cond) (sb : Bool) (rh rl rs rm : Reg) (s : State), s.ready c [rh, rl, rs, rm] = true →
    i ∈ [.umull c sb rh rl rs rm, .umlal c sb rh rl rs rm, .smull c sb rh rl rs rm, .smlal c sb rh rl rs rm] →
    (15#4 ∈ [rh, rl, rs, rm] → exec i s = .refused .longMulWithR15) ∧
    (15#4 ∉ [rh, rl, rs, rm] → rh = rl ∨ rh = rm ∨ rl = rm → exec i s = .refused .longMulNotDistinct))

/-- O40. LDR, LDRB and their T forms load the word or the zero-extended byte, and move the base as the form says.

The eight load rows (LDR, LDRB, LDRT, LDRBT, immediate and register offset) with Rd other than R15, where the operands are
ones 44_single_data_transfer R245 admits and the access goes through: Rd, the base, and nothing else. The T forms present
the access as a user-mode one. (Write back of the post-indexed forms is D33, zero extension D23, byte order D1.) -/
def Obligations.LoadResult : Prop :=
  ∀ (z : Size) (c : Cond) (p u w : Bool) (rn rd : Reg) (o : Offset) (s : State),
    s.ready c (rn :: rd :: o.regs) = true → rd ≠ 15#4 → 15#4 ∉ o.regs → (writesBack p w = true → rn ≠ 15#4 ∧ rd ≠ rn) →
    (p = false → rn ∉ o.regs) →
    let idx := if u then s.reg rn + s.offsetValue o else s.reg rn - s.offsetValue o
    let addr := if p then idx else s.reg rn
    z.fits addr = true → s.access z .read (s.privileged && !(!p && w)) addr = none →
    ∃ t, exec (transferInstr true z c p u w rn rd o) s = .next t ∧
      t.reg rd = (match z with
        | .byte => (s.byte addr.toNat).setWidth 32
        | .word => s.wordAt addr) ∧
      (writesBack p w = true → t.reg rn = idx) ∧ onlyRegs s t (rd :: if writesBack p w then [rn] else []) ∧
      t.psr = s.psr ∧ t.pc = s.successor ∧ t.hazard = false ∧ sameSystem s t ∧ sameBytes s t

/-- O41. STR, STRB and their T forms store the word or the low byte at the address, and no other byte changes.

The eight store rows (STR, STRB, STRT, STRBT, immediate and register offset): the bytes at the address the form computes
hold the value, little-endian, and every byte outside them reads as before; the base moves as the form says; no other
register, no flag and no special register changes. Memory in canonical form is the invariant of `InvariantKeptByStep`. -/
def Obligations.StoreResult : Prop :=
  ∀ (z : Size) (c : Cond) (p u w : Bool) (rn rd : Reg) (o : Offset) (s : State),
    s.ready c (rn :: rd :: o.regs) = true → Memory.wf s.mem = true → rd ≠ 15#4 → 15#4 ∉ o.regs →
    (writesBack p w = true → rn ≠ 15#4 ∧ rd ≠ rn) → (p = false → rn ∉ o.regs) →
    let idx := if u then s.reg rn + s.offsetValue o else s.reg rn - s.offsetValue o
    let addr := if p then idx else s.reg rn
    z.fits addr = true → s.access z .write (s.privileged && !(!p && w)) addr = none →
    ∃ t, exec (transferInstr false z c p u w rn rd o) s = .next t ∧
      (match z with
        | .byte => t.byte addr.toNat = (s.reg rd).extractLsb' 0 8
        | .word => t.wordAt addr = s.reg rd) ∧
      onlyBytes s t addr z.count ∧ (∀ a, a ∈ t.stored ↔ a ∈ s.stored ∨ a = addr.toNat - addr.toNat % 4) ∧
      (writesBack p w = true → t.reg rn = idx) ∧ onlyRegs s t (if writesBack p w then [rn] else []) ∧
      t.psr = s.psr ∧ t.pc = s.successor ∧ t.hazard = false ∧ sameSystem s t

/-- O42. LDR and LDRT with Rd = R15 jump to the loaded word and change no flag, mask or mode.

A word loaded into R15 is a jump (44_single_data_transfer R247): bits 25..2 in a 26-bit mode, all but the low two in a
32-bit mode; the PSR is not modified. -/
def Obligations.LoadIntoR15 : Prop :=
  ∀ (c : Cond) (p u w : Bool) (rn : Reg) (o : Offset) (s : State),
    s.ready c (rn :: o.regs) = true → 15#4 ∉ o.regs → (writesBack p w = true → rn ≠ 15#4) → (p = false → rn ∉ o.regs) →
    let idx := if u then s.reg rn + s.offsetValue o else s.reg rn - s.offsetValue o
    let addr := if p then idx else s.reg rn
    Word.aligned addr = true → s.access .word .read (s.privileged && !(!p && w)) addr = none →
    ∃ t, exec (transferInstr true .word c p u w rn 15#4 o) s = .next t ∧
      t.pc = s.wordAt addr &&& (if s.mode26 then 0x03FFFFFC#32 else 0xFFFFFFFC#32) ∧
      (writesBack p w = true → t.reg rn = idx) ∧ onlyRegs s t (if writesBack p w then [rn] else []) ∧
      t.psr = s.psr ∧ t.hazard = false ∧ sameSystem s t ∧ sameBytes s t

/-- O43. The single data transfers that the spec refuses, and the misaligned word transfers.

R15 as offset register, R15 as a base that is written back, Rd = Rn with write back, Rm = Rn post-indexed, a store of R15,
a byte load to R15, and a word transfer at an address that is not a multiple of 4 are refused (D33, D24, D17, D2). -/
def Obligations.TransferRestrictions : Prop :=
  ∀ (l : Bool) (z : Size) (c : Cond) (p u w : Bool) (rn rd : Reg) (o : Offset) (s : State),
    s.ready c (rn :: rd :: o.regs) = true →
    let idx := if u then s.reg rn + s.offsetValue o else s.reg rn - s.offsetValue o
    let addr := if p then idx else s.reg rn
    (15#4 ∈ o.regs ∨ (rn = 15#4 ∧ writesBack p w = true) ∨ (rd = rn ∧ writesBack p w = true) ∨
      (rn ∈ o.regs ∧ p = false) ∨ (rd = 15#4 ∧ (l = false ∨ z = .byte)) ∨ (z = .word ∧ Word.aligned addr = false)) →
    ∃ r, exec (transferInstr l z c p u w rn rd o) s = .refused r ∧
      r ∈ [.pcAsOffset, .r15BaseWriteBack, .rdEqRnWriteBack, .rmEqRnPostIndexed, .storeOfR15, .byteLoadToR15,
        .unalignedAccess]

/-- O44. A single data transfer whose access is stopped changes nothing before the exception.

An address of 2^26 or more on a 26-bit part is the address exception, an access the memory manager aborts is the data
abort, both taken in the state before the instruction (no register written, no byte stored: D40, D29), and an access to
an address without memory is the fault of 20_memory R81. For the T forms the memory manager sees a user-mode access. -/
def Obligations.TransferAborts : Prop :=
  ∀ (l : Bool) (z : Size) (c : Cond) (p u w : Bool) (rn rd : Reg) (o : Offset) (s : State),
    s.ready c (rn :: rd :: o.regs) = true → 15#4 ∉ o.regs → (writesBack p w = true → rn ≠ 15#4 ∧ rd ≠ rn) →
    (p = false → rn ∉ o.regs) → (rd = 15#4 → l = true ∧ z = .word) →
    let idx := if u then s.reg rn + s.offsetValue o else s.reg rn - s.offsetValue o
    let addr := if p then idx else s.reg rn
    z.fits addr = true →
    let i := transferInstr l z c p u w rn rd o
    let privileged := s.privileged && !(!p && w)
    let kind : AccessKind := if l then .read else .write
    (2 ^ s.cfg.variant.addrBits ≤ addr.toNat → exec i s = takeException .addressException { s with hazard := false }) ∧
    (addr.toNat < 2 ^ s.cfg.variant.addrBits →
      s.cfg.aborts.any (fun r => r.hits addr.toNat z kind privileged) = true →
      exec i s = takeException .dataAbort { s with hazard := false }) ∧
    (addr.toNat < 2 ^ s.cfg.variant.addrBits →
      s.cfg.aborts.any (fun r => r.hits addr.toNat z kind privileged) = false →
      s.cfg.holes.any (fun r => r.holds addr.toNat) = true → exec i s = .fault .unbackedAddress)

/-- O45. LDM: each register of the list gets its word, the lowest register the lowest address, and the base the final address.

LDMIA, LDMIB, LDMDA and LDMDB without S and without R15: the words stand at consecutive addresses from the lowest one of
the table of 45_block_data_transfer R262, the lowest register at the lowest address; with W the base gets the final
address. With W = 0 a base in the list ends with its loaded word (R276, D32). -/
def Obligations.BlockLoadResult : Prop :=
  ∀ (p u : Bool) (c : Cond) (w : Bool) (rn : Reg) (list : BitVec 16) (s : State),
    s.ready c (rn :: listRegs list) = true → rn ≠ 15#4 → list ≠ 0#16 → list.getLsbD 15 = false →
    (w = true → list.getLsbD rn.toNat = false) → Word.aligned (s.reg rn) = true →
    (∀ r : Reg, list.getLsbD r.toNat = true →
      s.access .word .read s.privileged (blockWordAddr p u (s.reg rn) list r) = none) →
    ∃ t, exec (blockInstr true p u c false w rn list) s = .next t ∧
      (∀ r : Reg, list.getLsbD r.toNat = true → t.reg r = s.wordAt (blockWordAddr p u (s.reg rn) list r)) ∧
      (w = true → t.reg rn = blockAfter u (s.reg rn) (listRegs list).length) ∧
      onlyRegs s t (listRegs list ++ if w then [rn] else []) ∧
      t.psr = s.psr ∧ t.pc = s.successor ∧ t.hazard = false ∧ sameSystem s t ∧ sameBytes s t

/-- O46. STM: each register of the list is stored at its word, and no byte outside those words changes.

STMIA, STMIB, STMDA and STMDB without S: memory holds the registers, every byte outside the words stored reads as before,
the base moves with W and no other register changes. A base in the list is stored as it was (R276, D32). -/
def Obligations.BlockStoreResult : Prop :=
  ∀ (p u : Bool) (c : Cond) (w : Bool) (rn : Reg) (list : BitVec 16) (s : State),
    s.ready c (rn :: listRegs list) = true → rn ≠ 15#4 → list ≠ 0#16 → list.getLsbD 15 = false →
    (w = true → list.getLsbD rn.toNat = false) → Word.aligned (s.reg rn) = true →
    Memory.wf s.mem = true →
    (∀ r : Reg, list.getLsbD r.toNat = true →
      s.access .word .write s.privileged (blockWordAddr p u (s.reg rn) list r) = none) →
    ∃ t, exec (blockInstr false p u c false w rn list) s = .next t ∧
      (∀ r : Reg, list.getLsbD r.toNat = true → t.wordAt (blockWordAddr p u (s.reg rn) list r) = s.reg r) ∧
      (∀ b : Nat, (∀ r : Reg, list.getLsbD r.toNat = true →
        b < (blockWordAddr p u (s.reg rn) list r).toNat ∨ (blockWordAddr p u (s.reg rn) list r).toNat + 4 ≤ b) →
        t.byte b = s.byte b) ∧
      (w = true → t.reg rn = blockAfter u (s.reg rn) (listRegs list).length) ∧
      onlyRegs s t (if w then [rn] else []) ∧
      t.psr = s.psr ∧ t.pc = s.successor ∧ t.hazard = false ∧ sameSystem s t

/-- O47. LDM with R15: a jump; with S the PSR too, from the word in a 26-bit mode, in a 32-bit mode from the SPSR, or a stop.

A block load with R15 in the list (45_block_data_transfer R274, recovered there, D32): every other register is loaded in
the bank of the mode before, then `pc` is written, and with S the PSR, as by a data processing instruction. With S in a
32-bit mode it is refused in user mode and where a restored 26-bit mode has the new `pc` out of its range (D14); a saved
mode number that is not defined is a fault (the model's reading, log 25). -/
def Obligations.BlockLoadOfR15 : Prop :=
  ∀ (p u : Bool) (c : Cond) (sb w : Bool) (rn : Reg) (list : BitVec 16) (s : State),
    s.ready c (rn :: listRegs list) = true → rn ≠ 15#4 → list.getLsbD 15 = true →
    (w = true → list.getLsbD rn.toNat = false) → Word.aligned (s.reg rn) = true →
    (∀ r : Reg, list.getLsbD r.toNat = true →
      s.access .word .read s.privileged (blockWordAddr p u (s.reg rn) list r) = none) →
    let v := s.wordAt (blockWordAddr p u (s.reg rn) list 15#4)
    let a := v &&& (if s.mode26 then 0x03FFFFFC#32 else 0xFFFFFFFC#32)
    let jumps (psr : Psr) : Prop := ∃ t, exec (blockInstr true p u c sb w rn list) s = .next t ∧
      (∀ r : Reg, r ≠ 15#4 → list.getLsbD r.toNat = true → ∀ x, s.psr.mode.preg r = some x →
        t.regs.read x = s.wordAt (blockWordAddr p u (s.reg rn) list r)) ∧
      (w = true → ∀ x, s.psr.mode.preg rn = some x →
        t.regs.read x = blockAfter u (s.reg rn) (listRegs list).length) ∧
      onlyRegs s t (listRegs list ++ if w then [rn] else []) ∧
      t.psr = psr ∧ t.pc = a ∧ t.hazard = false ∧ sameSystem s t ∧ sameBytes s t
    (sb = false → jumps s.psr) ∧
    (sb = true → s.mode26 = true → jumps (r15Psr s.psr v)) ∧
    (sb = true → s.mode26 = false → s.privileged = false →
      exec (blockInstr true p u c sb w rn list) s = .refused .blockRestoreInUser32) ∧
    (sb = true → s.mode26 = false → ∀ b, s.psr.mode.bank = some b →
      (Mode.ofBits (s.spsrs.read b).m = none →
        exec (blockInstr true p u c sb w rn list) s = .fault .undefinedMode) ∧
      (∀ m, Mode.ofBits (s.spsrs.read b).m = some m →
        (m.is26 = true ∧ 2 ^ 26 ≤ a.toNat →
          exec (blockInstr true p u c sb w rn list) s = .refused .pcOutOf26BitRange) ∧
        (¬(m.is26 = true ∧ 2 ^ 26 ≤ a.toNat) → jumps ((s.spsrs.read b).restore m))))

/-- O48. LDM and STM with S move the user registers in a privileged mode, and are the plain forms in user mode.

The second function of the S bit (45_block_data_transfer R275, D32): the user copies are loaded or stored whatever the
mode, the base is read from the current bank (and stored as read when it is in the list, log 17), and the hazard of
70_reset R413 follows. In user mode the form behaves as the plain one (log 28). -/
def Obligations.UserBankTransfers : Prop :=
  ∀ (p u : Bool) (c : Cond) (rn : Reg) (list : BitVec 16) (s : State),
    s.ready c (rn :: listRegs list) = true → rn ≠ 15#4 → list ≠ 0#16 → list.getLsbD 15 = false →
    Word.aligned (s.reg rn) = true →
    (s.privileged = true →
      (∀ r : Reg, list.getLsbD r.toNat = true →
        s.access .word .read true (blockWordAddr p u (s.reg rn) list r) = none) →
      ∃ t, exec (blockInstr true p u c true false rn list) s = .next t ∧
        (∀ r : Reg, list.getLsbD r.toNat = true → t.userReg r = s.wordAt (blockWordAddr p u (s.reg rn) list r)) ∧
        (∀ x, (∀ r : Reg, list.getLsbD r.toNat = true → Mode.usr32.preg r ≠ some x) →
          t.regs.read x = s.regs.read x) ∧
        t.psr = s.psr ∧ t.pc = s.successor ∧ t.hazard = true ∧ sameSystem s t ∧ sameBytes s t) ∧
    (s.privileged = true → Memory.wf s.mem = true →
      (∀ r : Reg, list.getLsbD r.toNat = true →
        s.access .word .write true (blockWordAddr p u (s.reg rn) list r) = none) →
      ∃ t, exec (blockInstr false p u c true false rn list) s = .next t ∧
        (∀ r : Reg, list.getLsbD r.toNat = true →
          t.wordAt (blockWordAddr p u (s.reg rn) list r) = if r = rn then s.reg rn else s.userReg r) ∧
        (∀ b : Nat, (∀ r : Reg, list.getLsbD r.toNat = true →
          b < (blockWordAddr p u (s.reg rn) list r).toNat ∨ (blockWordAddr p u (s.reg rn) list r).toNat + 4 ≤ b) →
          t.byte b = s.byte b) ∧
        t.regs = s.regs ∧ t.psr = s.psr ∧ t.pc = s.successor ∧ t.hazard = true ∧ sameSystem s t) ∧
    (s.privileged = false → ∀ l w, exec (blockInstr l p u c true w rn list) s = exec (blockInstr l p u c false w rn list) s)

/-- O49. The block data transfers that the spec refuses.

R15 as base, an empty list, the base in the list with write back, a store of R15, the user bank form with write back in a
privileged mode, and a base that is not a multiple of 4 are refused (D17, D37, D32, D24, D3). -/
def Obligations.BlockRestrictions : Prop :=
  ∀ (l p u : Bool) (c : Cond) (sb w : Bool) (rn : Reg) (list : BitVec 16) (s : State),
    s.ready c (rn :: listRegs list) = true →
    (rn = 15#4 ∨ list = 0#16 ∨ (w = true ∧ list.getLsbD rn.toNat = true) ∨ (l = false ∧ list.getLsbD 15 = true) ∨
      (sb = true ∧ w = true ∧ s.privileged = true ∧ (l = false ∨ list.getLsbD 15 = false)) ∨
      Word.aligned (s.reg rn) = false) →
    ∃ r, exec (blockInstr l p u c sb w rn list) s = .refused r ∧
      r ∈ [.pcAsBase, .emptyList, .userBankWriteBack, .baseInListWriteBack, .storeOfR15, .unalignedAccess]

/-- O50. A block transfer whose access is stopped writes no register, and a store has stored the words before it.

An address out of the range of a 26-bit part is the address exception before any access (45_block_data_transfer R280);
at the first access that is stopped the data abort is taken, or where there is no memory the machine stops (20_memory
R81), with no register written: a load has changed nothing, a store has stored the words of the registers before, user
copies with S, and no other byte (R279, D40). The base in a user bank store is log 17, S with W in user mode log 28. -/
def Obligations.BlockAborts : Prop :=
  ∀ (l p u : Bool) (c : Cond) (sb w : Bool) (rn : Reg) (list : BitVec 16) (s : State),
    s.ready c (rn :: listRegs list) = true → rn ≠ 15#4 → list ≠ 0#16 → (l = false → list.getLsbD 15 = false) →
    (w = true → list.getLsbD rn.toNat = false ∧ (sb = true → s.privileged = false ∨ (l = true ∧ list.getLsbD 15 = true))) →
    Word.aligned (s.reg rn) = true → Memory.wf s.mem = true →
    let addr := blockWordAddr p u (s.reg rn) list
    let kind : AccessKind := if l then .read else .write
    ((∃ r : Reg, list.getLsbD r.toNat = true ∧ 2 ^ s.cfg.variant.addrBits ≤ (addr r).toNat) →
      exec (blockInstr l p u c sb w rn list) s = takeException .addressException { s with hazard := false }) ∧
    (∀ r : Reg, list.getLsbD r.toNat = true →
      (∀ q : Reg, list.getLsbD q.toNat = true → (addr q).toNat < 2 ^ s.cfg.variant.addrBits) →
      (∀ q : Reg, list.getLsbD q.toNat = true → q.toNat < r.toNat →
        s.access .word kind s.privileged (addr q) = none) →
      ∀ x, s.stopsAccess .word kind s.privileged (addr r) x →
      ∃ t, exec (blockInstr l p u c sb w rn list) s = stopWith t x ∧
        t = { s with mem := t.mem, stored := t.stored, hazard := false } ∧
        (l = true → t.mem = s.mem ∧ t.stored = s.stored) ∧
        (l = false → ∀ q : Reg, list.getLsbD q.toNat = true → q.toNat < r.toNat →
          t.wordAt (addr q) = if q = rn then s.reg rn else if sb then s.userReg q else s.reg q) ∧
        (∀ b : Nat, (∀ q : Reg, list.getLsbD q.toNat = true → q.toNat < r.toNat →
          b < (addr q).toNat ∨ (addr q).toNat + 4 ≤ b) → t.byte b = s.byte b))

/-- O51. CDP, LDC, STC, MRC and MCR with no coprocessor responding take the undefined instruction trap.

If the coprocessor is absent or does not accept the instruction, the undefined instruction trap is taken before any other
effect (stated for CDP, derived there for the other four): the state in which it is taken is the one before the instruction. MCR with Rd = R15 is refused first (R305). -/
def Obligations.AbsentCoprocessorTraps : Prop :=
  ∀ (s : State) (c : Cond) (i : Instr) (cp : BitVec 4), condPassed c s.psr = true →
    ((∃ op crn crd q crm, i = .cdp c op crn crd cp q crm) ∨ (∃ op crn rd q crm, i = .mrc c op crn rd cp q crm) ∨
      (∃ op crn rd q crm, rd ≠ 15#4 ∧ i = .mcr c op crn rd cp q crm) ∨
      (∃ p u n w rn crd off, i = .ldc c p u n w rn crd cp off) ∨ (∃ p u n w rn crd off, i = .stc c p u n w rn crd cp off)) →
    (∀ k, s.coproc cp = some k → k.responds ((encode i).extractLsb' 0 28) = false) →
    exec i s = takeException .undefinedInstruction s

/-- O52. CDP, MCR and MRC: only the coprocessor, and for MRC Rd or the flags, change.

With a coprocessor that accepts the instruction: CDP changes the coprocessor alone; MCR hands it Rd; MRC puts its word
into Rd, or with Rd = R15 the top four bits of it into N, Z, C, V, with `pc`, I, F and the mode as they were. What the
coprocessor answers is its own affair (free functions, log 10). -/
def Obligations.CoprocessorOperations : Prop :=
  ∀ (s : State) (c : Cond) (cp : BitVec 4) (k : Coproc) (q : BitVec 3) (crn crm : BitVec 4), s.coproc cp = some k →
    (∀ op crd, let i := Instr.cdp c op crn crd cp q crm
      let instr := (encode i).extractLsb' 0 28
      condPassed c s.psr = true → k.responds instr = true →
      exec i s = .next { s.setCoproc cp (Config.cpCdp cp k instr) with pc := s.successor, hazard := false }) ∧
    (∀ op rd, let i := Instr.mcr c op crn rd cp q crm
      let instr := (encode i).extractLsb' 0 28
      (condPassed c s.psr = true → rd = 15#4 → exec i s = .refused .mcrWithR15) ∧
      (s.ready c [rd] = true → rd ≠ 15#4 → k.responds instr = true →
        exec i s = .next { s.setCoproc cp (Config.cpMcr cp k instr (s.reg rd)) with pc := s.successor, hazard := false })) ∧
    (∀ op rd, let i := Instr.mrc c op crn rd cp q crm
      let instr := (encode i).extractLsb' 0 28
      let v := Config.cpMrcWord cp k instr
      s.ready c [rd] = true → k.responds instr = true →
      ∃ t, exec i s = .next t ∧ t.cps = (s.setCoproc cp (Config.cpMrcState cp k instr)).cps ∧ t.pc = s.successor ∧
        t.hazard = false ∧ t.cfg = s.cfg ∧ t.spsrs = s.spsrs ∧ t.inputs = s.inputs ∧ sameBytes s t ∧
        (rd ≠ 15#4 → t.reg rd = v ∧ onlyRegs s t [rd] ∧ t.psr = s.psr) ∧
        (rd = 15#4 → t.regs = s.regs ∧ t.psr =
          { s.psr with n := v.getLsbD 31, z := v.getLsbD 30, c := v.getLsbD 29, v := v.getLsbD 28 }))

/-- O53. LDC hands the words at consecutive addresses to the coprocessor and moves the base as the form says.

LDC with a coprocessor that accepts it (47_coprocessor R303, D35): as many words as the coprocessor says, at consecutive
ascending addresses, go to the coprocessor; the base moves as for LDR; R15 as a base that is written back and a
misaligned address are refused. The first access that is stopped is the address exception, the data abort or the stop of
20_memory R81, with neither a register nor the coprocessor changed (60_exceptions R356, D40). -/
def Obligations.CoprocessorLoad : Prop :=
  ∀ (c : Cond) (p u n w : Bool) (rn : Reg) (crd cp : BitVec 4) (off : BitVec 8) (k : Coproc) (s : State),
    let i := Instr.ldc c p u n w rn crd cp off
    let instr := (encode i).extractLsb' 0 28
    s.ready c [rn] = true → s.coproc cp = some k → k.responds instr = true →
    let idx := if u then s.reg rn + 4#32 * off.setWidth 32 else s.reg rn - 4#32 * off.setWidth 32
    let addr := if p then idx else s.reg rn
    let count := Config.cpLdcMore cp k instr + 1
    let word (j : Nat) : Word := addr + BitVec.ofNat 32 (4 * j)
    (rn = 15#4 → writesBack p w = true → exec i s = .refused .r15BaseWriteBack) ∧
    ((rn = 15#4 → writesBack p w = false) → Word.aligned addr = false → exec i s = .refused .unalignedAccess) ∧
    ((rn = 15#4 → writesBack p w = false) → Word.aligned addr = true →
      (∀ j < count, s.access .word .read s.privileged (word j) = none) →
      ∃ t, exec i s = .next t ∧
        t.cps = (s.setCoproc cp (Config.cpLdc cp k instr ((List.range count).map fun j => s.wordAt (word j)))).cps ∧
        (writesBack p w = true → t.reg rn = idx) ∧ onlyRegs s t (if writesBack p w then [rn] else []) ∧
        t.psr = s.psr ∧ t.pc = s.successor ∧ t.hazard = false ∧ t.cfg = s.cfg ∧ t.spsrs = s.spsrs ∧
        t.inputs = s.inputs ∧ sameBytes s t) ∧
    ((rn = 15#4 → writesBack p w = false) → Word.aligned addr = true →
      ∀ j < count, (∀ m < j, s.access .word .read s.privileged (word m) = none) →
      ∀ x, s.stopsAccess .word .read s.privileged (word j) x → exec i s = stopWith { s with hazard := false } x)

/-- O54. STC stores the coprocessor's words at consecutive addresses and no other byte changes.

STC with a coprocessor that accepts it (47_coprocessor R304, D35): memory holds each of the coprocessor's words (but one that
a word 2^30 places later is stored over) and every other byte reads as before; the base moves as for STR. The first access
that is stopped is the address exception, the data abort or the stop of 20_memory R81: the words before it stay stored, and
neither a register nor the coprocessor changes (60_exceptions R356, D40). -/
def Obligations.CoprocessorStore : Prop :=
  ∀ (c : Cond) (p u n w : Bool) (rn : Reg) (crd cp : BitVec 4) (off : BitVec 8) (k : Coproc) (s : State),
    let i := Instr.stc c p u n w rn crd cp off
    let instr := (encode i).extractLsb' 0 28
    s.ready c [rn] = true → s.coproc cp = some k → k.responds instr = true → Memory.wf s.mem = true →
    let idx := if u then s.reg rn + 4#32 * off.setWidth 32 else s.reg rn - 4#32 * off.setWidth 32
    let addr := if p then idx else s.reg rn
    let count := Config.cpStcMore cp k instr + 1
    let word (j : Nat) : Word := addr + BitVec.ofNat 32 (4 * j)
    (rn = 15#4 → writesBack p w = true → exec i s = .refused .r15BaseWriteBack) ∧
    ((rn = 15#4 → writesBack p w = false) → Word.aligned addr = false → exec i s = .refused .unalignedAccess) ∧
    ((rn = 15#4 → writesBack p w = false) → Word.aligned addr = true →
      (∀ j < count, s.access .word .write s.privileged (word j) = none) →
      ∃ t, exec i s = .next t ∧
        (∀ j < count, count ≤ j + 2 ^ 30 → t.wordAt (word j) = Config.cpStcWord cp k instr j) ∧
        (∀ b : Nat, (∀ j < count, b < (word j).toNat ∨ (word j).toNat + 4 ≤ b) → t.byte b = s.byte b) ∧
        t.cps = (s.setCoproc cp (Config.cpStcState cp k instr)).cps ∧
        (writesBack p w = true → t.reg rn = idx) ∧ onlyRegs s t (if writesBack p w then [rn] else []) ∧
        t.psr = s.psr ∧ t.pc = s.successor ∧ t.hazard = false ∧ t.cfg = s.cfg ∧ t.spsrs = s.spsrs ∧ t.inputs = s.inputs) ∧
    ((rn = 15#4 → writesBack p w = false) → Word.aligned addr = true →
      ∀ j < count, (∀ m < j, s.access .word .write s.privileged (word m) = none) →
      ∀ x, s.stopsAccess .word .write s.privileged (word j) x →
      ∃ t, exec i s = stopWith t x ∧ t = { s with mem := t.mem, stored := t.stored, hazard := false } ∧
        (∀ m < j, t.wordAt (word m) = Config.cpStcWord cp k instr m) ∧
        (∀ b : Nat, (∀ m < j, b < (word m).toNat ∨ (word m).toNat + 4 ≤ b) → t.byte b = s.byte b))

/-- O55. SWP and SWPB exchange memory with a register, and change nothing else; stopped at an access they change nothing.

SWP and SWPB (48_swap R320): Rd gets the old word or zero-extended byte, memory gets Rm (the same register allowed), and
no other register, flag or byte changes. R15 and a misaligned word are refused (D17, D2). A read or a write that is stopped
is the address exception, the data abort or the stop of 20_memory R81, with nothing written (60_exceptions R356, D40). -/
def Obligations.SwapResult : Prop :=
  ∀ (z : Size) (c : Cond) (rn rd rm : Reg) (s : State), s.ready c [rn, rd, rm] = true →
    let i : Instr := match z with
      | .word => .swp c rn rd rm
      | .byte => .swpb c rn rd rm
    let addr := s.reg rn
    (15#4 ∈ [rn, rd, rm] → exec i s = .refused .swpWithR15) ∧
    (15#4 ∉ [rn, rd, rm] → z.fits addr = false → exec i s = .refused .unalignedAccess) ∧
    (15#4 ∉ [rn, rd, rm] → z.fits addr = true → Memory.wf s.mem = true →
      s.access z .read s.privileged addr = none → s.access z .write s.privileged addr = none →
      ∃ t, exec i s = .next t ∧
        (match z with
          | .word => t.reg rd = s.wordAt addr ∧ t.wordAt addr = s.reg rm
          | .byte => t.reg rd = (s.byte addr.toNat).setWidth 32 ∧ t.byte addr.toNat = (s.reg rm).extractLsb' 0 8) ∧
        onlyBytes s t addr z.count ∧ onlyRegs s t [rd] ∧ t.psr = s.psr ∧ t.pc = s.successor ∧ t.hazard = false ∧
        sameSystem s t) ∧
    (15#4 ∉ [rn, rd, rm] → z.fits addr = true →
      ∀ x, s.stopsAccess z .read s.privileged addr x ∨
        (s.access z .read s.privileged addr = none ∧ s.stopsAccess z .write s.privileged addr x) →
      exec i s = stopWith { s with hazard := false } x)

/-- O56. MRS puts the CPSR or the SPSR of the mode into Rd; its undefined bits are free.

MRS (49_status R331): bits 31..28, 7, 6 and 4..0 of Rd are the PSR's; of bits 27..8 and 5 nothing is said (free values,
D20). MRS into R15 is refused, and so is the SPSR in user mode (D31). -/
def Obligations.StatusToRegister : Prop :=
  ∀ (c : Cond) (spsr : Bool) (rd : Reg) (s : State), s.ready c [rd] = true →
    (rd = 15#4 → exec (.mrs c spsr rd) s = .refused .mrsRdR15) ∧
    (rd ≠ 15#4 → spsr = true → s.privileged = false → exec (.mrs c spsr rd) s = .refused .spsrInUserMode) ∧
    (rd ≠ 15#4 → (spsr = true → s.privileged = true) →
      ∃ t, exec (.mrs c spsr rd) s = .next t ∧ onlyRegs s t [rd] ∧ t.psr = s.psr ∧ t.pc = s.successor ∧
        t.hazard = false ∧ sameSystem s t ∧ sameBytes s t ∧
        ∃ q, (spsr = false → q = s.psr.save) ∧ (spsr = true → ∃ b, s.psr.mode.bank = some b ∧ q = s.spsrs.read b) ∧
          let v := t.reg rd
          v.getLsbD 31 = q.n ∧ v.getLsbD 30 = q.z ∧ v.getLsbD 29 = q.c ∧ v.getLsbD 28 = q.v ∧
            v.getLsbD 7 = q.i ∧ v.getLsbD 6 = q.f ∧ v.extractLsb' 0 5 = q.m)

/-- O57. MSR writes the fields selected: the flags in every mode, the control bits of the CPSR only in a privileged one.

MSR in both forms (49_status R332), to the CPSR and to the SPSR of the mode: what each field selector writes, that user
mode changes only the flags (D31), that an undefined mode number is the fault of 10_state R37, that leaving a 32-bit mode
with the next `pc` out of the 26-bit range is refused (D14), and that the next instruction is fetched in the new mode
(log 18). MSR with Rm = R15 is refused (90_conflicts C5, D17). -/
def Obligations.RegisterToStatus : Prop :=
  (∀ (c : Cond) (a : PsrField) (spsr : Bool) (s : State), condPassed c s.psr = true →
    exec (.msrReg c spsr a 15#4) s = .refused .msrRmR15) ∧
  (∀ (c : Cond) (a : PsrField) (i : Instr) (spsr : Bool) (v : Word) (s : State),
    ((∃ rm, i = .msrReg c spsr a rm ∧ rm ≠ 15#4 ∧ v = s.reg rm ∧ s.ready c [rm] = true) ∨
      (∃ rot imm, i = .msrImm c spsr a rot imm ∧ v = (immOperand rot imm false).value ∧ condPassed c s.psr = true)) →
    let flagged : Psr := if a = .ctl then s.psr else
      { s.psr with n := v.getLsbD 31, z := v.getLsbD 30, c := v.getLsbD 29, v := v.getLsbD 28 }
    let mode := Mode.ofBits (v.extractLsb' 0 5)
    (spsr = false → (s.privileged = false ∨ a = .flg) →
      exec i s = .next { s with psr := flagged, pc := s.successor, hazard := false }) ∧
    (spsr = false → s.privileged = true → a ≠ .flg → mode = none → exec i s = .fault .undefinedMode) ∧
    (spsr = false → s.privileged = true → a ≠ .flg → ∀ m, mode = some m →
      (s.mode26 = false ∧ m.is26 = true ∧ 2 ^ 26 ≤ (s.pc + 4#32).toNat → exec i s = .refused .pcOutOf26BitRange) ∧
      (¬(s.mode26 = false ∧ m.is26 = true ∧ 2 ^ 26 ≤ (s.pc + 4#32).toNat) → exec i s =
        .next { s with psr := { flagged with i := v.getLsbD 7, f := v.getLsbD 6, mode := m }, hazard := false,
                       pc := if m.is26 then (s.pc + 4#32) &&& 0x03FFFFFF#32 else s.pc + 4#32 })) ∧
    (spsr = true → s.privileged = false → exec i s = .refused .spsrInUserMode) ∧
    (spsr = true → ∀ b, s.psr.mode.bank = some b →
      ∃ t, exec i s = .next t ∧ t = { s with spsrs := t.spsrs, pc := s.successor, hazard := false } ∧
        (∀ b', b' ≠ b → t.spsrs.read b' = s.spsrs.read b') ∧
        let q := s.spsrs.read b
        let x := t.spsrs.read b
        (a = .ctl → x.n = q.n ∧ x.z = q.z ∧ x.c = q.c ∧ x.v = q.v) ∧
        (a ≠ .ctl → x.n = v.getLsbD 31 ∧ x.z = v.getLsbD 30 ∧ x.c = v.getLsbD 29 ∧ x.v = v.getLsbD 28) ∧
        (a = .flg → x.i = q.i ∧ x.f = q.f ∧ x.m = q.m) ∧
        (a ≠ .flg → x.i = v.getLsbD 7 ∧ x.f = v.getLsbD 6 ∧ x.m = v.extractLsb' 0 5)))

/-- O58. Only a mode-changing P form or a privileged user bank transfer starts the hazard; the next instruction may not use R8 to R14.

The hazard of 70_reset R412 and R413 (D41). The one instruction after may not use R8 to R14: each instruction that names
such a register, in its list, or as the R14 of BL, is refused while the hazard is set, and whatever completes ends it unless
it starts it anew. An exception ends it. Which fields count as used, that an instruction passed over ends it too, and that
an absent coprocessor traps first, are the model's reading (log 16). -/
def Obligations.HazardLastsOneInstruction : Prop :=
  (∀ (i : Instr) (s t : State), exec i s = .next t → t.hazard = true → s.privileged = true ∧
    ((∃ k c rn o, i = testPInstr k c rn o ∧ t.psr.mode ≠ s.psr.mode) ∨
      (∃ l p u c rn list, i = blockInstr l p u c true false rn list ∧ (l = false ∨ list.getLsbD 15 = false)))) ∧
  (∀ (i : Instr) (c : Cond) (named : List Reg) (s : State), s.hazard = true → condPassed c s.psr = true →
    anyBanked named = true →
    ((∃ op sb rn rd o, i = dpInstr op c sb rn rd o ∧ named = rd :: rnRead op rn ++ o.regs) ∨
      (∃ k rn rd o, (i = testInstr k c rn rd o ∨ i = testPInstr k c rn o) ∧ named = rn :: o.regs) ∨
      (∃ sb rd rn rs rm, (i = .mul c sb rd rn rs rm ∧ named = [rd, rm, rs]) ∨
        (i = .mla c sb rd rn rs rm ∧ named = [rd, rm, rs, rn])) ∨
      (∃ sb rh rl rs rm, i ∈ [.umull c sb rh rl rs rm, .umlal c sb rh rl rs rm, .smull c sb rh rl rs rm,
        .smlal c sb rh rl rs rm] ∧ named = [rh, rl, rs, rm]) ∨
      (∃ l z p u w rn rd o, i = transferInstr l z c p u w rn rd o ∧ named = rn :: rd :: o.regs) ∨
      (∃ l p u sb w rn list, i = blockInstr l p u c sb w rn list ∧ named = rn :: listRegs list) ∨
      (∃ rn rd rm, i ∈ [.swp c rn rd rm, .swpb c rn rd rm] ∧ named = [rn, rd, rm]) ∨
      (∃ off, i = .bl c off ∧ named = [14#4]) ∨
      (∃ spsr a r, i ∈ [.mrs c spsr r, .msrReg c spsr a r] ∧ named = [r]) ∨
      (∃ cp k, s.coproc cp = some k ∧ k.responds ((encode i).extractLsb' 0 28) = true ∧
        ((∃ op crn rd q crm, i ∈ [.mrc c op crn rd cp q crm, .mcr c op crn rd cp q crm] ∧ named = [rd]) ∨
          (∃ p u n w rn crd off, i ∈ [.ldc c p u n w rn crd cp off, .stc c p u n w rn crd cp off] ∧ named = [rn])))) →
    exec i s = .refused .bankedRegisterAfterModeChange) ∧
  (∀ (e : Exc) (s t : State), takeException e s = .next t → t.hazard = false)

/-- O59. The registers visible in each mode: the table of the spec.

10_state R21, mode by mode: R0 to R14 in user mode; R8_FIQ to R14_FIQ, and R13 and R14 of IRQ, SVC, ABT and UND, seen by
that mode only; every other name shared with user mode; and R15 in every mode. -/
def Obligations.BankedRegisters : Prop :=
  ∀ r : Reg, r ≠ 15#4 →
    let shared : Option PReg := some (.usr (Fin.ofNat 15 r.toNat))
    Mode.usr26.preg r = shared ∧
    Mode.fiq26.preg r = (if r.toNat < 8 then shared else some (.fiq (Fin.ofNat 7 (r.toNat - 8)))) ∧
    Mode.irq26.preg r = (if r.toNat < 13 then shared else some (.irq (Fin.ofNat 2 (r.toNat - 13)))) ∧
    Mode.svc26.preg r = (if r.toNat < 13 then shared else some (.svc (Fin.ofNat 2 (r.toNat - 13)))) ∧
    Mode.abt32.preg r = (if r.toNat < 13 then shared else some (.abt (Fin.ofNat 2 (r.toNat - 13)))) ∧
    Mode.und32.preg r = (if r.toNat < 13 then shared else some (.und (Fin.ofNat 2 (r.toNat - 13)))) ∧
    (∀ (m m' : Mode) (q : Reg), m.preg q = m'.preg r → m.bank = m'.bank ∨ m.preg q = shared) ∧
    (∀ s : State, s.reg 15#4 = s.pcRead)

/-- O60. A write changes the one register the mode sees, and the 26-bit and 32-bit form of a mode share their bank.

The registers of 10_state R22 to R25: no two names of one mode share a register, the 26-bit and the 32-bit form of a mode
share their bank (from general knowledge there), and a write changes the one register named, in the bank of the mode or in
the user bank. -/
def Obligations.RegisterReadsAndWrites : Prop :=
  (∀ (m : Mode) (r q : Reg) (p : PReg), m.preg r = some p → m.preg q = some p → r = q) ∧
  (∀ r : Reg, Mode.fiq32.preg r = Mode.fiq26.preg r ∧ Mode.irq32.preg r = Mode.irq26.preg r ∧
    Mode.svc32.preg r = Mode.svc26.preg r ∧ Mode.usr32.preg r = Mode.usr26.preg r) ∧
  (∀ (s : State) (r : Reg) (v : Word), r ≠ 15#4 → (s.setReg r v).reg r = v ∧ onlyRegs s (s.setReg r v) [r] ∧
    (s.setUserReg r v).userReg r = v ∧
    ∀ p, Mode.usr32.preg r ≠ some p → (s.setUserReg r v).regs.read p = s.regs.read p)
end

