-- ==== Sys2Proof/Laws/State.lean ====
section
/-!
SUPPORT. One lemma per field for each update of the state.
-/

namespace Sys2Proof.Machine

@[simp] theorem State.setReg_cfg (s : State) (r : Reg) (v : Word) : (s.setReg r v).cfg = s.cfg := by
  unfold State.setReg; split <;> rfl
@[simp] theorem State.setReg_pc (s : State) (r : Reg) (v : Word) : (s.setReg r v).pc = s.pc := by
  unfold State.setReg; split <;> rfl
@[simp] theorem State.setReg_psr (s : State) (r : Reg) (v : Word) : (s.setReg r v).psr = s.psr := by
  unfold State.setReg; split <;> rfl
@[simp] theorem State.setReg_spsrs (s : State) (r : Reg) (v : Word) : (s.setReg r v).spsrs = s.spsrs := by
  unfold State.setReg; split <;> rfl
@[simp] theorem State.setReg_mem (s : State) (r : Reg) (v : Word) : (s.setReg r v).mem = s.mem := by
  unfold State.setReg; split <;> rfl
@[simp] theorem State.setReg_stored (s : State) (r : Reg) (v : Word) : (s.setReg r v).stored = s.stored := by
  unfold State.setReg; split <;> rfl
@[simp] theorem State.setReg_hazard (s : State) (r : Reg) (v : Word) : (s.setReg r v).hazard = s.hazard := by
  unfold State.setReg; split <;> rfl
@[simp] theorem State.setReg_inputs (s : State) (r : Reg) (v : Word) : (s.setReg r v).inputs = s.inputs := by
  unfold State.setReg; split <;> rfl
@[simp] theorem State.setReg_cps (s : State) (r : Reg) (v : Word) : (s.setReg r v).cps = s.cps := by
  unfold State.setReg; split <;> rfl
@[simp] theorem State.setReg_draws (s : State) (r : Reg) (v : Word) : (s.setReg r v).draws = s.draws := by
  unfold State.setReg; split <;> rfl

@[simp] theorem State.setUserReg_cfg (s : State) (r : Reg) (v : Word) : (s.setUserReg r v).cfg = s.cfg := by
  unfold State.setUserReg; split <;> rfl
@[simp] theorem State.setUserReg_pc (s : State) (r : Reg) (v : Word) : (s.setUserReg r v).pc = s.pc := by
  unfold State.setUserReg; split <;> rfl
@[simp] theorem State.setUserReg_psr (s : State) (r : Reg) (v : Word) : (s.setUserReg r v).psr = s.psr := by
  unfold State.setUserReg; split <;> rfl
@[simp] theorem State.setUserReg_spsrs (s : State) (r : Reg) (v : Word) : (s.setUserReg r v).spsrs = s.spsrs := by
  unfold State.setUserReg; split <;> rfl
@[simp] theorem State.setUserReg_mem (s : State) (r : Reg) (v : Word) : (s.setUserReg r v).mem = s.mem := by
  unfold State.setUserReg; split <;> rfl
@[simp] theorem State.setUserReg_stored (s : State) (r : Reg) (v : Word) : (s.setUserReg r v).stored = s.stored := by
  unfold State.setUserReg; split <;> rfl
@[simp] theorem State.setUserReg_hazard (s : State) (r : Reg) (v : Word) : (s.setUserReg r v).hazard = s.hazard := by
  unfold State.setUserReg; split <;> rfl
@[simp] theorem State.setUserReg_inputs (s : State) (r : Reg) (v : Word) : (s.setUserReg r v).inputs = s.inputs := by
  unfold State.setUserReg; split <;> rfl
@[simp] theorem State.setUserReg_cps (s : State) (r : Reg) (v : Word) : (s.setUserReg r v).cps = s.cps := by
  unfold State.setUserReg; split <;> rfl
@[simp] theorem State.setUserReg_draws (s : State) (r : Reg) (v : Word) : (s.setUserReg r v).draws = s.draws := by
  unfold State.setUserReg; split <;> rfl

@[simp] theorem State.advance_cfg (s : State)  : (s.advance).cfg = s.cfg := rfl
@[simp] theorem State.advance_regs (s : State)  : (s.advance).regs = s.regs := rfl
@[simp] theorem State.advance_pc (s : State)  : (s.advance).pc = s.successor := rfl
@[simp] theorem State.advance_psr (s : State)  : (s.advance).psr = s.psr := rfl
@[simp] theorem State.advance_spsrs (s : State)  : (s.advance).spsrs = s.spsrs := rfl
@[simp] theorem State.advance_mem (s : State)  : (s.advance).mem = s.mem := rfl
@[simp] theorem State.advance_stored (s : State)  : (s.advance).stored = s.stored := rfl
@[simp] theorem State.advance_hazard (s : State)  : (s.advance).hazard = s.hazard := rfl
@[simp] theorem State.advance_inputs (s : State)  : (s.advance).inputs = s.inputs := rfl
@[simp] theorem State.advance_cps (s : State)  : (s.advance).cps = s.cps := rfl
@[simp] theorem State.advance_draws (s : State)  : (s.advance).draws = s.draws := rfl

@[simp] theorem State.writePc_cfg (s : State) (v : Word) : (s.writePc v).cfg = s.cfg := rfl
@[simp] theorem State.writePc_regs (s : State) (v : Word) : (s.writePc v).regs = s.regs := rfl
@[simp] theorem State.writePc_pc (s : State) (v : Word) : (s.writePc v).pc = s.pcTarget v := rfl
@[simp] theorem State.writePc_psr (s : State) (v : Word) : (s.writePc v).psr = s.psr := rfl
@[simp] theorem State.writePc_spsrs (s : State) (v : Word) : (s.writePc v).spsrs = s.spsrs := rfl
@[simp] theorem State.writePc_mem (s : State) (v : Word) : (s.writePc v).mem = s.mem := rfl
@[simp] theorem State.writePc_stored (s : State) (v : Word) : (s.writePc v).stored = s.stored := rfl
@[simp] theorem State.writePc_hazard (s : State) (v : Word) : (s.writePc v).hazard = s.hazard := rfl
@[simp] theorem State.writePc_inputs (s : State) (v : Word) : (s.writePc v).inputs = s.inputs := rfl
@[simp] theorem State.writePc_cps (s : State) (v : Word) : (s.writePc v).cps = s.cps := rfl
@[simp] theorem State.writePc_draws (s : State) (v : Word) : (s.writePc v).draws = s.draws := rfl

@[simp] theorem State.drawn_cfg (s : State) (n : Nat) : (s.drawn n).cfg = s.cfg := rfl
@[simp] theorem State.drawn_regs (s : State) (n : Nat) : (s.drawn n).regs = s.regs := rfl
@[simp] theorem State.drawn_pc (s : State) (n : Nat) : (s.drawn n).pc = s.pc := rfl
@[simp] theorem State.drawn_psr (s : State) (n : Nat) : (s.drawn n).psr = s.psr := rfl
@[simp] theorem State.drawn_spsrs (s : State) (n : Nat) : (s.drawn n).spsrs = s.spsrs := rfl
@[simp] theorem State.drawn_mem (s : State) (n : Nat) : (s.drawn n).mem = s.mem := rfl
@[simp] theorem State.drawn_stored (s : State) (n : Nat) : (s.drawn n).stored = s.stored := rfl
@[simp] theorem State.drawn_hazard (s : State) (n : Nat) : (s.drawn n).hazard = s.hazard := rfl
@[simp] theorem State.drawn_inputs (s : State) (n : Nat) : (s.drawn n).inputs = s.inputs := rfl
@[simp] theorem State.drawn_cps (s : State) (n : Nat) : (s.drawn n).cps = s.cps := rfl
@[simp] theorem State.drawn_draws (s : State) (n : Nat) : (s.drawn n).draws = s.draws + n := rfl

@[simp] theorem State.put_cfg (s : State) (z : Size) (a v : Word) : (s.put z a v).cfg = s.cfg := rfl
@[simp] theorem State.put_regs (s : State) (z : Size) (a v : Word) : (s.put z a v).regs = s.regs := rfl
@[simp] theorem State.put_pc (s : State) (z : Size) (a v : Word) : (s.put z a v).pc = s.pc := rfl
@[simp] theorem State.put_psr (s : State) (z : Size) (a v : Word) : (s.put z a v).psr = s.psr := rfl
@[simp] theorem State.put_spsrs (s : State) (z : Size) (a v : Word) : (s.put z a v).spsrs = s.spsrs := rfl
@[simp] theorem State.put_mem (s : State) (z : Size) (a v : Word) : (s.put z a v).mem = Memory.writeBytes s.mem a.toNat (z.bytes v) := rfl
@[simp] theorem State.put_stored (s : State) (z : Size) (a v : Word) : (s.put z a v).stored = insertAddr (a.toNat - a.toNat % 4) s.stored := rfl
@[simp] theorem State.put_hazard (s : State) (z : Size) (a v : Word) : (s.put z a v).hazard = s.hazard := rfl
@[simp] theorem State.put_inputs (s : State) (z : Size) (a v : Word) : (s.put z a v).inputs = s.inputs := rfl
@[simp] theorem State.put_cps (s : State) (z : Size) (a v : Word) : (s.put z a v).cps = s.cps := rfl
@[simp] theorem State.put_draws (s : State) (z : Size) (a v : Word) : (s.put z a v).draws = s.draws := rfl

@[simp] theorem State.setCoproc_cfg (s : State) (p : BitVec 4) (k : Coproc) : (s.setCoproc p k).cfg = s.cfg := rfl
@[simp] theorem State.setCoproc_regs (s : State) (p : BitVec 4) (k : Coproc) : (s.setCoproc p k).regs = s.regs := rfl
@[simp] theorem State.setCoproc_pc (s : State) (p : BitVec 4) (k : Coproc) : (s.setCoproc p k).pc = s.pc := rfl
@[simp] theorem State.setCoproc_psr (s : State) (p : BitVec 4) (k : Coproc) : (s.setCoproc p k).psr = s.psr := rfl
@[simp] theorem State.setCoproc_spsrs (s : State) (p : BitVec 4) (k : Coproc) : (s.setCoproc p k).spsrs = s.spsrs := rfl
@[simp] theorem State.setCoproc_mem (s : State) (p : BitVec 4) (k : Coproc) : (s.setCoproc p k).mem = s.mem := rfl
@[simp] theorem State.setCoproc_stored (s : State) (p : BitVec 4) (k : Coproc) : (s.setCoproc p k).stored = s.stored := rfl
@[simp] theorem State.setCoproc_hazard (s : State) (p : BitVec 4) (k : Coproc) : (s.setCoproc p k).hazard = s.hazard := rfl
@[simp] theorem State.setCoproc_inputs (s : State) (p : BitVec 4) (k : Coproc) : (s.setCoproc p k).inputs = s.inputs := rfl
@[simp] theorem State.setCoproc_draws (s : State) (p : BitVec 4) (k : Coproc) : (s.setCoproc p k).draws = s.draws := rfl

@[simp] theorem State.sampled_cfg (s : State)  : (s.sampled).cfg = s.cfg := rfl
@[simp] theorem State.sampled_regs (s : State)  : (s.sampled).regs = s.regs := rfl
@[simp] theorem State.sampled_pc (s : State)  : (s.sampled).pc = s.pc := rfl
@[simp] theorem State.sampled_psr (s : State)  : (s.sampled).psr = s.psr := rfl
@[simp] theorem State.sampled_spsrs (s : State)  : (s.sampled).spsrs = s.spsrs := rfl
@[simp] theorem State.sampled_mem (s : State)  : (s.sampled).mem = s.mem := rfl
@[simp] theorem State.sampled_stored (s : State)  : (s.sampled).stored = s.stored := rfl
@[simp] theorem State.sampled_hazard (s : State)  : (s.sampled).hazard = s.hazard := rfl
@[simp] theorem State.sampled_inputs (s : State)  : (s.sampled).inputs = s.inputs.tail := rfl
@[simp] theorem State.sampled_cps (s : State)  : (s.sampled).cps = s.cps := rfl
@[simp] theorem State.sampled_draws (s : State)  : (s.sampled).draws = s.draws := rfl

@[simp] theorem State.writeBack_cfg (s : State) (p w : Bool) (rn : Reg) (v : Word) : (s.writeBack p w rn v).cfg = s.cfg := by
  unfold State.writeBack; split <;> simp
@[simp] theorem State.writeBack_pc (s : State) (p w : Bool) (rn : Reg) (v : Word) : (s.writeBack p w rn v).pc = s.pc := by
  unfold State.writeBack; split <;> simp
@[simp] theorem State.writeBack_psr (s : State) (p w : Bool) (rn : Reg) (v : Word) : (s.writeBack p w rn v).psr = s.psr := by
  unfold State.writeBack; split <;> simp
@[simp] theorem State.writeBack_spsrs (s : State) (p w : Bool) (rn : Reg) (v : Word) : (s.writeBack p w rn v).spsrs = s.spsrs := by
  unfold State.writeBack; split <;> simp
@[simp] theorem State.writeBack_mem (s : State) (p w : Bool) (rn : Reg) (v : Word) : (s.writeBack p w rn v).mem = s.mem := by
  unfold State.writeBack; split <;> simp
@[simp] theorem State.writeBack_stored (s : State) (p w : Bool) (rn : Reg) (v : Word) : (s.writeBack p w rn v).stored = s.stored := by
  unfold State.writeBack; split <;> simp
@[simp] theorem State.writeBack_hazard (s : State) (p w : Bool) (rn : Reg) (v : Word) : (s.writeBack p w rn v).hazard = s.hazard := by
  unfold State.writeBack; split <;> simp
@[simp] theorem State.writeBack_inputs (s : State) (p w : Bool) (rn : Reg) (v : Word) : (s.writeBack p w rn v).inputs = s.inputs := by
  unfold State.writeBack; split <;> simp
@[simp] theorem State.writeBack_cps (s : State) (p w : Bool) (rn : Reg) (v : Word) : (s.writeBack p w rn v).cps = s.cps := by
  unfold State.writeBack; split <;> simp
@[simp] theorem State.writeBack_draws (s : State) (p w : Bool) (rn : Reg) (v : Word) : (s.writeBack p w rn v).draws = s.draws := by
  unfold State.writeBack; split <;> simp

@[simp] theorem State.blockBack_cfg (s : State) (w : Bool) (rn : Reg) (v : Word) : (s.blockBack w rn v).cfg = s.cfg := by
  unfold State.blockBack; split <;> simp
@[simp] theorem State.blockBack_pc (s : State) (w : Bool) (rn : Reg) (v : Word) : (s.blockBack w rn v).pc = s.pc := by
  unfold State.blockBack; split <;> simp
@[simp] theorem State.blockBack_psr (s : State) (w : Bool) (rn : Reg) (v : Word) : (s.blockBack w rn v).psr = s.psr := by
  unfold State.blockBack; split <;> simp
@[simp] theorem State.blockBack_spsrs (s : State) (w : Bool) (rn : Reg) (v : Word) : (s.blockBack w rn v).spsrs = s.spsrs := by
  unfold State.blockBack; split <;> simp
@[simp] theorem State.blockBack_mem (s : State) (w : Bool) (rn : Reg) (v : Word) : (s.blockBack w rn v).mem = s.mem := by
  unfold State.blockBack; split <;> simp
@[simp] theorem State.blockBack_stored (s : State) (w : Bool) (rn : Reg) (v : Word) : (s.blockBack w rn v).stored = s.stored := by
  unfold State.blockBack; split <;> simp
@[simp] theorem State.blockBack_hazard (s : State) (w : Bool) (rn : Reg) (v : Word) : (s.blockBack w rn v).hazard = s.hazard := by
  unfold State.blockBack; split <;> simp
@[simp] theorem State.blockBack_inputs (s : State) (w : Bool) (rn : Reg) (v : Word) : (s.blockBack w rn v).inputs = s.inputs := by
  unfold State.blockBack; split <;> simp
@[simp] theorem State.blockBack_cps (s : State) (w : Bool) (rn : Reg) (v : Word) : (s.blockBack w rn v).cps = s.cps := by
  unfold State.blockBack; split <;> simp
@[simp] theorem State.blockBack_draws (s : State) (w : Bool) (rn : Reg) (v : Word) : (s.blockBack w rn v).draws = s.draws := by
  unfold State.blockBack; split <;> simp

@[simp] theorem State.finishBlock_cfg (s : State) (u : Bool) : (s.finishBlock u).cfg = s.cfg := rfl
@[simp] theorem State.finishBlock_regs (s : State) (u : Bool) : (s.finishBlock u).regs = s.regs := rfl
@[simp] theorem State.finishBlock_pc (s : State) (u : Bool) : (s.finishBlock u).pc = s.successor := rfl
@[simp] theorem State.finishBlock_psr (s : State) (u : Bool) : (s.finishBlock u).psr = s.psr := rfl
@[simp] theorem State.finishBlock_spsrs (s : State) (u : Bool) : (s.finishBlock u).spsrs = s.spsrs := rfl
@[simp] theorem State.finishBlock_mem (s : State) (u : Bool) : (s.finishBlock u).mem = s.mem := rfl
@[simp] theorem State.finishBlock_stored (s : State) (u : Bool) : (s.finishBlock u).stored = s.stored := rfl
@[simp] theorem State.finishBlock_hazard (s : State) (u : Bool) : (s.finishBlock u).hazard = (u && s.privileged) := rfl
@[simp] theorem State.finishBlock_inputs (s : State) (u : Bool) : (s.finishBlock u).inputs = s.inputs := rfl
@[simp] theorem State.finishBlock_cps (s : State) (u : Bool) : (s.finishBlock u).cps = s.cps := rfl
@[simp] theorem State.finishBlock_draws (s : State) (u : Bool) : (s.finishBlock u).draws = s.draws := rfl

@[simp] theorem State.blockLoadReg_cfg (s : State) (u : Bool) (x : Reg × Word) : (State.blockLoadReg u s x).cfg = s.cfg := by
  unfold State.blockLoadReg; split <;> [skip; split] <;> simp
@[simp] theorem State.blockLoadReg_pc (s : State) (u : Bool) (x : Reg × Word) : (State.blockLoadReg u s x).pc = s.pc := by
  unfold State.blockLoadReg; split <;> [skip; split] <;> simp
@[simp] theorem State.blockLoadReg_psr (s : State) (u : Bool) (x : Reg × Word) : (State.blockLoadReg u s x).psr = s.psr := by
  unfold State.blockLoadReg; split <;> [skip; split] <;> simp
@[simp] theorem State.blockLoadReg_spsrs (s : State) (u : Bool) (x : Reg × Word) : (State.blockLoadReg u s x).spsrs = s.spsrs := by
  unfold State.blockLoadReg; split <;> [skip; split] <;> simp
@[simp] theorem State.blockLoadReg_mem (s : State) (u : Bool) (x : Reg × Word) : (State.blockLoadReg u s x).mem = s.mem := by
  unfold State.blockLoadReg; split <;> [skip; split] <;> simp
@[simp] theorem State.blockLoadReg_stored (s : State) (u : Bool) (x : Reg × Word) : (State.blockLoadReg u s x).stored = s.stored := by
  unfold State.blockLoadReg; split <;> [skip; split] <;> simp
@[simp] theorem State.blockLoadReg_hazard (s : State) (u : Bool) (x : Reg × Word) : (State.blockLoadReg u s x).hazard = s.hazard := by
  unfold State.blockLoadReg; split <;> [skip; split] <;> simp
@[simp] theorem State.blockLoadReg_inputs (s : State) (u : Bool) (x : Reg × Word) : (State.blockLoadReg u s x).inputs = s.inputs := by
  unfold State.blockLoadReg; split <;> [skip; split] <;> simp
@[simp] theorem State.blockLoadReg_cps (s : State) (u : Bool) (x : Reg × Word) : (State.blockLoadReg u s x).cps = s.cps := by
  unfold State.blockLoadReg; split <;> [skip; split] <;> simp
@[simp] theorem State.blockLoadReg_draws (s : State) (u : Bool) (x : Reg × Word) : (State.blockLoadReg u s x).draws = s.draws := by
  unfold State.blockLoadReg; split <;> [skip; split] <;> simp

theorem State.blockLoadRegs_same {α : Type} (g : State → α) (u : Bool)
    (hg : ∀ s x, g (State.blockLoadReg u s x) = g s) (l : List (Reg × Word)) (s : State) :
    g (s.blockLoadRegs u l) = g s := by
  unfold State.blockLoadRegs
  induction l generalizing s with
  | nil => rfl
  | cons x l ih => simp only [List.foldl_cons]; rw [ih, hg]

@[simp] theorem State.blockLoadRegs_cfg (s : State) (u : Bool) (l : List (Reg × Word)) : (s.blockLoadRegs u l).cfg = s.cfg :=
  State.blockLoadRegs_same _ u (by simp) l s
@[simp] theorem State.blockLoadRegs_pc (s : State) (u : Bool) (l : List (Reg × Word)) : (s.blockLoadRegs u l).pc = s.pc :=
  State.blockLoadRegs_same _ u (by simp) l s
@[simp] theorem State.blockLoadRegs_psr (s : State) (u : Bool) (l : List (Reg × Word)) : (s.blockLoadRegs u l).psr = s.psr :=
  State.blockLoadRegs_same _ u (by simp) l s
@[simp] theorem State.blockLoadRegs_spsrs (s : State) (u : Bool) (l : List (Reg × Word)) : (s.blockLoadRegs u l).spsrs = s.spsrs :=
  State.blockLoadRegs_same _ u (by simp) l s
@[simp] theorem State.blockLoadRegs_mem (s : State) (u : Bool) (l : List (Reg × Word)) : (s.blockLoadRegs u l).mem = s.mem :=
  State.blockLoadRegs_same _ u (by simp) l s
@[simp] theorem State.blockLoadRegs_stored (s : State) (u : Bool) (l : List (Reg × Word)) : (s.blockLoadRegs u l).stored = s.stored :=
  State.blockLoadRegs_same _ u (by simp) l s
@[simp] theorem State.blockLoadRegs_hazard (s : State) (u : Bool) (l : List (Reg × Word)) : (s.blockLoadRegs u l).hazard = s.hazard :=
  State.blockLoadRegs_same _ u (by simp) l s
@[simp] theorem State.blockLoadRegs_inputs (s : State) (u : Bool) (l : List (Reg × Word)) : (s.blockLoadRegs u l).inputs = s.inputs :=
  State.blockLoadRegs_same _ u (by simp) l s
@[simp] theorem State.blockLoadRegs_cps (s : State) (u : Bool) (l : List (Reg × Word)) : (s.blockLoadRegs u l).cps = s.cps :=
  State.blockLoadRegs_same _ u (by simp) l s
@[simp] theorem State.blockLoadRegs_draws (s : State) (u : Bool) (l : List (Reg × Word)) : (s.blockLoadRegs u l).draws = s.draws :=
  State.blockLoadRegs_same _ u (by simp) l s

@[simp] theorem State.setResult_cfg (s : State) (sb : Bool) (rd : Reg) (r : AluResult) : (s.setResult sb rd r).cfg = s.cfg := by
  unfold State.setResult; dsimp only; split <;> simp
@[simp] theorem State.setResult_pc (s : State) (sb : Bool) (rd : Reg) (r : AluResult) : (s.setResult sb rd r).pc = s.pc := by
  unfold State.setResult; dsimp only; split <;> simp
@[simp] theorem State.setResult_spsrs (s : State) (sb : Bool) (rd : Reg) (r : AluResult) : (s.setResult sb rd r).spsrs = s.spsrs := by
  unfold State.setResult; dsimp only; split <;> simp
@[simp] theorem State.setResult_mem (s : State) (sb : Bool) (rd : Reg) (r : AluResult) : (s.setResult sb rd r).mem = s.mem := by
  unfold State.setResult; dsimp only; split <;> simp
@[simp] theorem State.setResult_stored (s : State) (sb : Bool) (rd : Reg) (r : AluResult) : (s.setResult sb rd r).stored = s.stored := by
  unfold State.setResult; dsimp only; split <;> simp
@[simp] theorem State.setResult_hazard (s : State) (sb : Bool) (rd : Reg) (r : AluResult) : (s.setResult sb rd r).hazard = s.hazard := by
  unfold State.setResult; dsimp only; split <;> simp
@[simp] theorem State.setResult_inputs (s : State) (sb : Bool) (rd : Reg) (r : AluResult) : (s.setResult sb rd r).inputs = s.inputs := by
  unfold State.setResult; dsimp only; split <;> simp
@[simp] theorem State.setResult_cps (s : State) (sb : Bool) (rd : Reg) (r : AluResult) : (s.setResult sb rd r).cps = s.cps := by
  unfold State.setResult; dsimp only; split <;> simp
@[simp] theorem State.setResult_draws (s : State) (sb : Bool) (rd : Reg) (r : AluResult) : (s.setResult sb rd r).draws = s.draws := by
  unfold State.setResult; dsimp only; split <;> simp

@[simp] theorem State.setResult_regs (s : State) (sb : Bool) (rd : Reg) (r : AluResult) : (s.setResult sb rd r).regs = (s.setReg rd r.value).regs := by
  unfold State.setResult; dsimp only; split <;> simp

@[simp] theorem State.setResult_psr (s : State) (sb : Bool) (rd : Reg) (r : AluResult) :
    (s.setResult sb rd r).psr = if sb then s.psr.withFlags r.value r.c r.v else s.psr := by
  unfold State.setResult; dsimp only; split <;> simp

@[simp] theorem Psr.withFlags_mode (p : Psr) (w : Word) (c v : Bool) : (p.withFlags w c v).mode = p.mode := rfl
@[simp] theorem Psr.withFlags_i (p : Psr) (w : Word) (c v : Bool) : (p.withFlags w c v).i = p.i := rfl
@[simp] theorem Psr.withFlags_f (p : Psr) (w : Word) (c v : Bool) : (p.withFlags w c v).f = p.f := rfl
@[simp] theorem Psr.withTopFlags_mode (p : Psr) (w : Word) : (p.withTopFlags w).mode = p.mode := rfl
@[simp] theorem Psr.withTopFlags_i (p : Psr) (w : Word) : (p.withTopFlags w).i = p.i := rfl
@[simp] theorem Psr.withTopFlags_f (p : Psr) (w : Word) : (p.withTopFlags w).f = p.f := rfl

end Sys2Proof.Machine
end

