-- ==== Sys2Proof/Laws/Memory.lean ====
section
/-!
SUPPORT. Memory: a read after a write, and the canonical form (20_memory R74, R75).
-/

namespace Sys2Proof.Machine

theorem Memory.risesFrom_mono {lo lo' : Nat} (h : lo ≤ lo') (m : List Host.Cell) :
    Memory.risesFrom lo' m = true → Memory.risesFrom lo m = true := by
  cases m with
  | nil => simp [Memory.risesFrom]
  | cons x m =>
    simp only [Memory.risesFrom, Bool.and_eq_true, decide_eq_true_eq]
    rintro ⟨⟨h1, h2⟩, h3⟩
    exact ⟨⟨by omega, h2⟩, h3⟩

/-- An address below every listed one reads as an unlisted byte. -/
theorem Memory.read_below {lo a : Nat} (h : a < lo) (m : List Host.Cell) (hm : Memory.risesFrom lo m = true) :
    Memory.read m a = unlistedByte := by
  induction m generalizing lo with
  | nil => rfl
  | cons x m ih =>
    simp only [Memory.risesFrom, Bool.and_eq_true, decide_eq_true_eq] at hm
    obtain ⟨⟨h1, -⟩, h3⟩ := hm
    have : a ≠ x.1 := by omega
    simp only [Memory.read, if_neg this]
    exact ih (lo := x.1 + 1) (by omega) h3

/-- A write keeps the canonical form. -/
theorem Memory.risesFrom_write {lo : Nat} (m : List Host.Cell) (a : Nat) (v : Byte) (ha : lo ≤ a)
    (hm : Memory.risesFrom lo m = true) : Memory.risesFrom lo (Memory.write m a v) = true := by
  induction m generalizing lo with
  | nil => unfold Memory.write; split <;> simp_all [Memory.risesFrom]
  | cons x m ih =>
    have h := hm
    simp only [Memory.risesFrom, Bool.and_eq_true, decide_eq_true_eq] at h
    obtain ⟨⟨h1, h2⟩, h3⟩ := h
    unfold Memory.write
    split
    · split
      · exact hm
      · simp only [Memory.risesFrom, Bool.and_eq_true, decide_eq_true_eq]
        exact ⟨⟨ha, by simp_all⟩, ⟨⟨by omega, h2⟩, h3⟩⟩
    · split
      · split
        · exact Memory.risesFrom_mono (by omega) m h3
        · simp only [Memory.risesFrom, Bool.and_eq_true, decide_eq_true_eq]
          refine ⟨⟨ha, by simp_all⟩, ?_⟩
          rename_i e _
          rw [e]; exact h3
      · simp only [Memory.risesFrom, Bool.and_eq_true, decide_eq_true_eq]
        exact ⟨⟨h1, h2⟩, ih (lo := x.1 + 1) (by omega) h3⟩

theorem Memory.wf_write (m : List Host.Cell) (a : Nat) (v : Byte) (hm : Memory.wf m = true) :
    Memory.wf (Memory.write m a v) = true :=
  Memory.risesFrom_write m a v (Nat.zero_le a) hm

theorem Memory.wf_writeBytes (m : List Host.Cell) (a : Nat) (l : List Byte) (hm : Memory.wf m = true) :
    Memory.wf (Memory.writeBytes m a l) = true := by
  induction l generalizing m a with
  | nil => exact hm
  | cons v l ih => exact ih _ _ (Memory.wf_write m a v hm)

/-- A read after a write gives the value written, and every other byte is as it was. In memory that is not in
canonical form the write may not reach past a later duplicate, so the form is assumed. -/
theorem Memory.read_write (m : List Host.Cell) (a b : Nat) (v : Byte) (hm : Memory.wf m = true) :
    Memory.read (Memory.write m a v) b = if b = a then v else Memory.read m b := by
  suffices h : ∀ lo, Memory.risesFrom lo m = true →
      Memory.read (Memory.write m a v) b = if b = a then v else Memory.read m b from h 0 hm
  clear hm
  induction m with
  | nil =>
    intro _ _
    by_cases hv : v = unlistedByte
    · simp [Memory.write, hv, Memory.read]
    · simp [Memory.write, hv, Memory.read]
  | cons x m ih =>
    intro lo hm
    obtain ⟨k, w⟩ := x
    simp only [Memory.risesFrom, Bool.and_eq_true, decide_eq_true_eq] at hm
    obtain ⟨⟨h1, h2⟩, h3⟩ := hm
    unfold Memory.write
    split
    · rename_i hlt
      split
      · rename_i hv
        by_cases hb : b = a
        · subst hb
          have hne : b ≠ k := by omega
          rw [if_pos rfl, hv]
          simp only [Memory.read, if_neg hne]
          exact Memory.read_below (lo := k + 1) (by omega) m h3
        · simp [hb]
      · simp [Memory.read]
    · split
      · rename_i hk
        subst hk
        split
        · rename_i hv
          by_cases hb : b = a
          · subst hb
            rw [if_pos rfl, hv]
            exact Memory.read_below (lo := b + 1) (by omega) m h3
          · simp [hb, Memory.read]
        · by_cases hb : b = a <;> simp [hb, Memory.read]
      · simp only [Memory.read]
        by_cases hb : b = k
        · have : b ≠ a := by omega
          simp [hb]; intro h; omega
        · simp only [if_neg hb]
          exact ih (k + 1) h3

/-- The bytes of a list are read back where they were written, and every other byte is as it was. -/
theorem Memory.read_writeBytes (m : List Host.Cell) (a b : Nat) (l : List Byte) (hm : Memory.wf m = true) :
    Memory.read (Memory.writeBytes m a l) b =
      if a ≤ b ∧ b < a + l.length then l.getD (b - a) unlistedByte else Memory.read m b := by
  induction l generalizing m a with
  | nil => simp [Memory.writeBytes]
  | cons v l ih =>
    simp only [Memory.writeBytes]
    rw [ih _ _ (Memory.wf_write m a v hm), Memory.read_write m a b v hm]
    simp only [List.length_cons]
    by_cases h1 : a + 1 ≤ b ∧ b < a + 1 + l.length
    · have h2 : a ≤ b ∧ b < a + (l.length + 1) := by omega
      rw [if_pos h1, if_pos h2]
      have : b - a = (b - (a + 1)) + 1 := by omega
      rw [this]; rfl
    · rw [if_neg h1]
      by_cases hb : b = a
      · subst hb; simp
      · rw [if_neg hb, if_neg (by omega)]

/-- Outside the bytes written, memory is as it was. -/
theorem Memory.read_writeBytes_other (m : List Host.Cell) (a b : Nat) (l : List Byte) (hm : Memory.wf m = true)
    (h : b < a ∨ a + l.length ≤ b) : Memory.read (Memory.writeBytes m a l) b = Memory.read m b := by
  rw [Memory.read_writeBytes m a b l hm, if_neg (by omega)]

/-- A predicate on addresses that the listed ones satisfy still holds after a write at such an address. -/
theorem Memory.all_write (P : Nat → Bool) (m : List Host.Cell) (a : Nat) (v : Byte) (ha : P a = true)
    (hm : m.all (fun x => P x.1) = true) : (Memory.write m a v).all (fun x => P x.1) = true := by
  induction m with
  | nil => unfold Memory.write; split <;> simp [ha]
  | cons x m ih =>
    have h := hm
    simp only [List.all_cons, Bool.and_eq_true] at h
    unfold Memory.write
    split
    · split
      · exact hm
      · simp only [List.all_cons, Bool.and_eq_true]; exact ⟨ha, h⟩
    · split
      · split
        · exact h.2
        · simp only [List.all_cons, Bool.and_eq_true]; exact ⟨ha, h.2⟩
      · simp only [List.all_cons, Bool.and_eq_true]; exact ⟨h.1, ih h.2⟩

theorem Memory.all_writeBytes (P : Nat → Bool) (m : List Host.Cell) (a : Nat) (l : List Byte)
    (ha : ∀ i, i < l.length → P (a + i) = true) (hm : m.all (fun x => P x.1) = true) :
    (Memory.writeBytes m a l).all (fun x => P x.1) = true := by
  induction l generalizing m a with
  | nil => exact hm
  | cons v l ih =>
    refine ih _ _ (fun i hi => ?_) (Memory.all_write P m a v (by simpa using ha 0 (by simp)) hm)
    have := ha (i + 1) (by simp; omega)
    rwa [Nat.add_assoc, Nat.add_comm 1 i]

@[simp] theorem bytes_length_byte (v : Word) : (Size.bytes .byte v).length = 1 := rfl

@[simp] theorem bytes_length_word (v : Word) : (Size.bytes .word v).length = 4 := rfl

/-- A word read where a word was written is that word (20_memory R71). -/
theorem Memory.readWord_writeBytes (m : List Host.Cell) (a : Nat) (v : Word) (hm : Memory.wf m = true) :
    Memory.readWord (Memory.writeBytes m a (bytesOfWord v)) a = v := by
  unfold Memory.readWord
  simp only [Memory.read_writeBytes m a _ _ hm, bytesOfWord, List.length_cons, List.length_nil]
  have e0 : a - a = 0 := by omega
  have e1 : a + 1 - a = 1 := by omega
  have e2 : a + 2 - a = 2 := by omega
  have e3 : a + 3 - a = 3 := by omega
  rw [if_pos (by omega), if_pos (by omega), if_pos (by omega), if_pos (by omega), e0, e1, e2, e3]
  simp only [List.getD_cons_zero, List.getD_cons_succ, wordOfBytes, field]
  ext i hi
  simp only [BitVec.getElem_append, BitVec.getElem_extractLsb']
  split
  · rename_i h; simp; rw [BitVec.getLsbD_eq_getElem (by omega)]
  · split
    · simp; rw [BitVec.getLsbD_eq_getElem (by omega)]; congr 1; omega
    · split
      · simp; rw [BitVec.getLsbD_eq_getElem (by omega)]; congr 1; omega
      · simp; rw [BitVec.getLsbD_eq_getElem (by omega)]; congr 1; omega

/-- The bytes of a word list are a rising list with one word more (20_memory R90). -/
theorem insertAddr_mem (a b : Nat) (l : List Nat) : b ∈ insertAddr a l ↔ b = a ∨ b ∈ l := by
  induction l with
  | nil => simp [insertAddr]
  | cons c l ih =>
    unfold insertAddr
    split
    · simp
    · split
      · rename_i h; subst h; simp
      · simp [ih]; tauto

end Sys2Proof.Machine
end

