-- ==== Sys2Proof/Laws/Registers.lean ====
section
/-!
SUPPORT. The register file: which physical register a name is, and what a write leaves (10_state R21 to R25).
-/

namespace Sys2Proof.Machine

@[simp] theorem Mode.preg_fifteen (m : Mode) : m.preg 15#4 = none := rfl

theorem Mode.preg_eq_none (m : Mode) (r : Reg) : m.preg r = none ↔ r = 15#4 := by
  revert r; cases m <;> decide

theorem Mode.preg_injective (m : Mode) (r q : Reg) : m.preg r = m.preg q ↔ r = q := by
  revert r q; cases m <;> decide

theorem Mode.exists_preg (m : Mode) (r : Reg) (h : r ≠ 15#4) : ∃ p, m.preg r = some p := by
  cases hp : m.preg r with
  | none => exact absurd ((m.preg_eq_none r).1 hp) h
  | some p => exact ⟨p, rfl⟩

theorem Regs.read_write (x : Regs) (p q : PReg) (v : Word) :
    (x.write p v).read q = if p = q then v else x.read q := by
  cases p <;> cases q <;> simp [Regs.write, Regs.read, Vector.getElem_set, Fin.ext_iff]

@[simp] theorem Regs.read_write_same (x : Regs) (p : PReg) (v : Word) : (x.write p v).read p = v := by
  simp [Regs.read_write]

/-- What a write of a register leaves in each physical register. -/
theorem State.setReg_read (s : State) (r : Reg) (v : Word) (p : PReg) :
    (s.setReg r v).regs.read p = if s.psr.mode.preg r = some p then v else s.regs.read p := by
  unfold State.setReg
  cases h : s.psr.mode.preg r with
  | none => simp
  | some q => simp [Regs.read_write]

/-- What a write of a user register leaves in each physical register. -/
theorem State.setUserReg_read (s : State) (r : Reg) (v : Word) (p : PReg) :
    (s.setUserReg r v).regs.read p = if Mode.usr32.preg r = some p then v else s.regs.read p := by
  unfold State.setUserReg
  cases h : Mode.usr32.preg r with
  | none => simp
  | some q => simp [Regs.read_write]

theorem State.reg_eq (s : State) (r : Reg) (p : PReg) (h : s.psr.mode.preg r = some p) :
    s.reg r = s.regs.read p := by
  simp [State.reg, h]

@[simp] theorem State.reg_fifteen (s : State) : s.reg 15#4 = s.pcRead := rfl

/-- A register other than R15 depends on the mode and on the registers alone. -/
theorem State.reg_congr {s t : State} (r : Reg) (hr : r ≠ 15#4) (hm : t.psr.mode = s.psr.mode)
    (hp : ∀ p, s.psr.mode.preg r = some p → t.regs.read p = s.regs.read p) : t.reg r = s.reg r := by
  obtain ⟨p, h⟩ := s.psr.mode.exists_preg r hr
  rw [State.reg_eq s r p h, State.reg_eq t r p (by rw [hm]; exact h), hp p h]

@[simp] theorem State.reg_setReg_same (s : State) (r : Reg) (v : Word) (h : r ≠ 15#4) :
    (s.setReg r v).reg r = v := by
  obtain ⟨p, hp⟩ := s.psr.mode.exists_preg r h
  rw [State.reg_eq _ r p (by simpa using hp), State.setReg_read, if_pos hp]

theorem State.reg_setReg_ne (s : State) (r q : Reg) (v : Word) (h : q ≠ r) (hq : q ≠ 15#4) :
    (s.setReg r v).reg q = s.reg q := by
  refine State.reg_congr q hq (by simp) fun p hp => ?_
  rw [State.setReg_read, if_neg]
  intro hr
  exact h ((s.psr.mode.preg_injective q r).1 (hp.trans hr.symm))

@[simp] theorem State.setReg_fifteen (s : State) (v : Word) : s.setReg 15#4 v = s := rfl

@[simp] theorem State.reg_with_psr_flags (s : State) (r : Reg) (p : Psr) (h : p.mode = s.psr.mode) :
    ({ s with psr := p } : State).reg r = s.reg r := by
  simp only [State.reg, State.pcRead, State.mode26, h]; rfl

@[simp] theorem State.reg_with_hazard (s : State) (r : Reg) (b : Bool) :
    ({ s with hazard := b } : State).reg r = s.reg r := rfl

theorem State.reg_with_pc (s : State) (r : Reg) (a : Word) (h : r ≠ 15#4) :
    ({ s with pc := a } : State).reg r = s.reg r :=
  State.reg_congr r h rfl fun _ _ => rfl

@[simp] theorem State.reg_advance (s : State) (r : Reg) (h : r ≠ 15#4) : s.advance.reg r = s.reg r :=
  s.reg_with_pc r _ h

end Sys2Proof.Machine
end

