-- ==== Sys2Proof/Laws/Answers.lean ====
section
/-!
SUPPORT. One lemma for each shared operation that says everything it can answer.
-/

namespace Sys2Proof.Machine

/-! ## The frame of an instruction -/

/-- An instruction that is ready is its own rule, run with the hazard cleared. -/
theorem instruction_ready {c : Cond} {rs : List Reg} {s : State} (h : s.ready c rs = true)
    (body : State → Answer) : instruction c rs s body = body { s with hazard := false } := by
  simp only [State.ready, Bool.and_eq_true, Bool.not_eq_true'] at h
  simp [instruction, conditional, guardBanked, h.1, h.2]

/-- An instruction whose condition fails moves on. -/
theorem instruction_failed {c : Cond} {rs : List Reg} {s : State} (h : condPassed c s.psr = false)
    (body : State → Answer) :
    instruction c rs s body = .next { s with pc := s.successor, hazard := false } := by
  simp only [instruction, conditional, h]; rfl

/-- What a conditional operation can answer. -/
theorem conditional_next {c : Cond} {s t : State} {body : State → Answer} (h : conditional c s body = .next t) :
    (condPassed c s.psr = false ∧ t = { s with pc := s.successor, hazard := false }) ∨
      (condPassed c s.psr = true ∧ body s = .next t) := by
  unfold conditional at h
  cases hc : condPassed c s.psr with
  | true => rw [hc] at h; exact .inr ⟨rfl, h⟩
  | false =>
    rw [hc] at h
    exact .inl ⟨rfl, (Host.Outcome.next.inj h).symm⟩

theorem guardBanked_next {b : Bool} {s t : State} {body : State → Answer} (h : guardBanked b s body = .next t) :
    (s.hazard && b) = false ∧ body { s with hazard := false } = .next t := by
  unfold guardBanked at h
  cases hb : (s.hazard && b) with
  | true => simp [hb] at h
  | false => rw [hb] at h; exact ⟨rfl, h⟩

/-- What an instruction can answer: moving on, or its own rule with the hazard cleared. -/
theorem instruction_next {c : Cond} {rs : List Reg} {s t : State} {body : State → Answer}
    (h : instruction c rs s body = .next t) :
    (condPassed c s.psr = false ∧ t = { s with pc := s.successor, hazard := false }) ∨
      (s.ready c rs = true ∧ body { s with hazard := false } = .next t) := by
  rcases conditional_next h with h | ⟨hc, h⟩
  · exact .inl h
  · obtain ⟨hb, h⟩ := guardBanked_next h
    exact .inr ⟨by simp [State.ready, hc, hb], h⟩

/-- While the hazard is set an instruction that names a register of R8 to R14 is refused (70_reset R412). -/
theorem instruction_hazard {c : Cond} {rs : List Reg} {s : State} (hz : s.hazard = true)
    (h : condPassed c s.psr = true) (hb : anyBanked rs = true) (body : State → Answer) :
    instruction c rs s body = .refused .bankedRegisterAfterModeChange := by
  simp [instruction, conditional, guardBanked, hz, h, hb]

theorem refuseIf_next {r : Option Refusal} {a : Answer} {t : State} (h : refuseIf r a = .next t) :
    r = none ∧ a = .next t := by
  cases r with
  | none => exact ⟨rfl, h⟩
  | some r => simp [refuseIf] at h

theorem stopWith_next {s t : State} {e : Stop} (h : stopWith s e = .next t) :
    ∃ x, e = .exc x ∧ takeException x s = .next t := by
  cases e with
  | exc x => exact ⟨x, rfl, h⟩
  | fault f => simp [stopWith] at h
  | refuse r => simp [stopWith] at h

/-- What an operation that may stop can answer: an exception taken, or on with its value. -/
theorem andThen_next {α : Type} {s t : State} {r : Except Stop α} {k : α → Answer} (h : andThen s r k = .next t) :
    (∃ x, r = .error (.exc x) ∧ takeException x s = .next t) ∨ (∃ a, r = .ok a ∧ k a = .next t) := by
  cases r with
  | ok a => exact .inr ⟨a, rfl, h⟩
  | error e =>
    obtain ⟨x, rfl, h⟩ := stopWith_next h
    exact .inl ⟨x, rfl, h⟩

/-! ## Exceptions -/

/-- What exception entry can answer (60_exceptions R355). -/
theorem takeException_next {e : Exc} {s t : State} (h : takeException e s = .next t) :
    (s.cfg.entry32 = true ∧
      t = { s.enter e (s.pc + e.returnOffset) with spsrs := s.spsrs.write (e.bank true) s.psr.save }) ∨
    (s.cfg.entry32 = false ∧ s.mode26 = true ∧
      t = (s.enter e (s.r15With (s.pc + e.returnOffset))).losesSpsr (e.bank false)) := by
  unfold takeException at h
  simp only at h
  split at h
  · rename_i h1; exact .inl ⟨h1, by simpa using h.symm⟩
  · rename_i h1
    split at h
    · rename_i h2; exact .inr ⟨by simpa using h1, h2, by simpa using h.symm⟩
    · simp at h

section
variable (s : State) (e : Exc) (link : Word)

@[simp] theorem State.enter_cfg : (s.enter e link).cfg = s.cfg := by simp [State.enter]
@[simp] theorem State.enter_pc : (s.enter e link).pc = e.vector := rfl
@[simp] theorem State.enter_spsrs : (s.enter e link).spsrs = s.spsrs := by simp [State.enter]
@[simp] theorem State.enter_mem : (s.enter e link).mem = s.mem := by simp [State.enter]
@[simp] theorem State.enter_stored : (s.enter e link).stored = s.stored := by simp [State.enter]
@[simp] theorem State.enter_hazard : (s.enter e link).hazard = false := rfl
@[simp] theorem State.enter_inputs : (s.enter e link).inputs = s.inputs := by simp [State.enter]
@[simp] theorem State.enter_cps : (s.enter e link).cps = s.cps := by simp [State.enter]
@[simp] theorem State.enter_draws : (s.enter e link).draws = s.draws := by simp [State.enter]
@[simp] theorem State.enter_psr : (s.enter e link).psr =
    { s.psr with mode := e.mode s.cfg.entry32, i := true, f := s.psr.f || decide (e = .fiq) } := by
  simp [State.enter]

/-- Entry writes R14 of the mode entered and no other register. -/
theorem State.enter_read (p : PReg) : (s.enter e link).regs.read p =
    if (e.mode s.cfg.entry32).preg 14#4 = some p then link else s.regs.read p := by
  simp [State.enter, State.setReg_read]

end

section
variable (s : State) (b : ExcBank)

@[simp] theorem State.losesSpsr_cfg : (s.losesSpsr b).cfg = s.cfg := by unfold State.losesSpsr; split <;> simp
@[simp] theorem State.losesSpsr_regs : (s.losesSpsr b).regs = s.regs := by unfold State.losesSpsr; split <;> simp
@[simp] theorem State.losesSpsr_pc : (s.losesSpsr b).pc = s.pc := by unfold State.losesSpsr; split <;> simp
@[simp] theorem State.losesSpsr_psr : (s.losesSpsr b).psr = s.psr := by unfold State.losesSpsr; split <;> simp
@[simp] theorem State.losesSpsr_mem : (s.losesSpsr b).mem = s.mem := by unfold State.losesSpsr; split <;> simp
@[simp] theorem State.losesSpsr_stored : (s.losesSpsr b).stored = s.stored := by unfold State.losesSpsr; split <;> simp
@[simp] theorem State.losesSpsr_hazard : (s.losesSpsr b).hazard = s.hazard := by unfold State.losesSpsr; split <;> simp
@[simp] theorem State.losesSpsr_inputs : (s.losesSpsr b).inputs = s.inputs := by unfold State.losesSpsr; split <;> simp
@[simp] theorem State.losesSpsr_cps : (s.losesSpsr b).cps = s.cps := by unfold State.losesSpsr; split <;> simp
@[simp] theorem State.losesSpsr_spsrs : (s.losesSpsr b).spsrs =
    if s.cfg.variant.hasPsr32 then s.spsrs.write b (freeSavedPsr s.draws) else s.spsrs := by
  unfold State.losesSpsr; split <;> simp

end

/-- Taking an exception ends the hazard (70_reset R412). -/
theorem takeException_hazard {e : Exc} {s t : State} (h : takeException e s = .next t) : t.hazard = false := by
  rcases takeException_next h with ⟨-, rfl⟩ | ⟨-, -, rfl⟩ <;> simp

/-- What a write of R15 can answer (60_exceptions R370). -/
theorem State.writeR15_ok {s t : State} {u : Refusal} {r : Bool} {v : Word} (h : s.writeR15 u r v = .ok t) :
    (r = false ∧ t = s.writePc v) ∨
    (r = true ∧ s.mode26 = true ∧ t = { s.writePc v with psr := s.psr.writeR15 v }) ∨
    (r = true ∧ s.mode26 = false ∧ ∃ b m, s.psr.mode.bank = some b ∧ Mode.ofBits (s.spsrs.read b).m = some m ∧
      (m.is26 = true → (s.pcTarget v).toNat < 2 ^ 26) ∧
      t = { s.writePc v with psr := (s.spsrs.read b).restore m }) := by
  unfold State.writeR15 at h
  split at h
  · rename_i hr; exact .inl ⟨by simpa using hr, by simpa using h.symm⟩
  · rename_i hr
    have hr : r = true := by simpa using hr
    split at h
    · rename_i h2; exact .inr (.inl ⟨hr, h2, by simpa using h.symm⟩)
    · rename_i h2
      split at h
      · simp at h
      · rename_i b hb
        simp only at h
        split at h
        · simp at h
        · rename_i m hm
          split at h
          · simp at h
          · rename_i h3
            refine .inr (.inr ⟨hr, by simpa using h2, b, m, hb, hm, ?_, by simpa using h.symm⟩)
            intro hm26
            simp [hm26] at h3
            omega

/-- A write of R15 raises no exception. -/
theorem State.writeR15_error {s : State} {u : Refusal} {r : Bool} {v : Word} {e : Stop}
    (h : s.writeR15 u r v = .error e) : e = .refuse u ∨ e = .fault .undefinedMode ∨ e = .refuse .pcOutOf26BitRange := by
  unfold State.writeR15 at h
  split at h
  · simp at h
  · split at h
    · simp at h
    · split at h
      · left; simpa using h.symm
      · simp only at h
        split at h
        · right; left; simpa using h.symm
        · split at h
          · right; right; simpa using h.symm
          · simp at h

/-! ## Memory accesses -/

/-- What can stop an access (20_memory R74). -/
theorem State.access_some {s : State} {z : Size} {k : AccessKind} {p : Bool} {a : Word} {e : Stop}
    (h : s.access z k p a = some e) :
    (e = .exc .addressException ∧ k ≠ .fetch ∧ 2 ^ s.cfg.variant.addrBits ≤ a.toNat) ∨
    (e = .exc (if k = .fetch then .prefetchAbort else .dataAbort)) ∨ e = .fault .unbackedAddress := by
  unfold State.access at h
  split at h
  · rename_i h1; exact .inl ⟨by simpa using h.symm, h1⟩
  · split at h
    · exact .inr (.inl (by simpa using h.symm))
    · split at h
      · exact .inr (.inr (by simpa using h.symm))
      · simp at h

/-- What stops a data access, in the terms of the statements. -/
theorem State.access_eq_some {s : State} {z : Size} {k : AccessKind} {p : Bool} {a : Word} {x : Stop}
    (hk : k ≠ .fetch) : s.access z k p a = some x ↔ s.stopsAccess z k p a x := by
  unfold State.access State.stopsAccess
  split
  · rename_i h1
    constructor
    · intro h; exact .inl ⟨(Option.some.inj h).symm, h1.2⟩
    · rintro (⟨rfl, -⟩ | ⟨-, h, -⟩ | ⟨-, h, -⟩)
      · rfl
      · exact absurd h1.2 h
      · exact absurd h1.2 h
  · rename_i h1
    have h1 : ¬2 ^ s.cfg.variant.addrBits ≤ a.toNat := fun h => h1 ⟨hk, h⟩
    cases h2 : s.cfg.aborts.any (fun r => r.hits a.toNat z k p) <;>
      cases h3 : s.cfg.holes.any (fun r => r.holds a.toNat) <;> simp only [h1] <;> simp [eq_comm]

/-- An access that goes through is in range (20_memory R82). -/
theorem State.access_none_range {s : State} {z : Size} {k : AccessKind} {p : Bool} {a : Word}
    (hk : k ≠ .fetch) (h : s.access z k p a = none) : a.toNat < 2 ^ s.cfg.variant.addrBits := by
  unfold State.access at h
  split at h
  · simp at h
  · rename_i h1; exact Nat.lt_of_not_le fun hle => h1 ⟨hk, hle⟩

/-- Memory, registers and the rest of the state do not enter an access; the configuration does. -/
theorem State.access_congr {s t : State} (h : t.cfg = s.cfg) (z : Size) (k : AccessKind) (p : Bool) (a : Word) :
    t.access z k p a = s.access z k p a := by
  unfold State.access; rw [h]

theorem State.load_ok {s : State} {z : Size} {u : Bool} {a v : Word} (h : s.load z u a = .ok v) :
    s.access z .read (s.privileged && !u) a = none ∧ v = s.value z a := by
  unfold State.load at h
  split at h
  · simp at h
  · rename_i h1; exact ⟨h1, by simpa using h.symm⟩

theorem State.load_of_access {s : State} {z : Size} {u : Bool} {a : Word}
    (h : s.access z .read (s.privileged && !u) a = none) : s.load z u a = .ok (s.value z a) := by
  unfold State.load; rw [h]

theorem State.load_error {s : State} {z : Size} {u : Bool} {a : Word} {e : Stop} (h : s.load z u a = .error e) :
    s.access z .read (s.privileged && !u) a = some e := by
  unfold State.load at h
  split at h
  · rename_i e' h1; rw [h1]; simpa using h
  · simp at h

theorem State.store_ok {s t : State} {z : Size} {u : Bool} {a v : Word} (h : s.store z u a v = .ok t) :
    s.access z .write (s.privileged && !u) a = none ∧ t = s.put z a v := by
  unfold State.store at h
  split at h
  · simp at h
  · rename_i h1; exact ⟨h1, by simpa using h.symm⟩

theorem State.store_of_access {s : State} {z : Size} {u : Bool} {a v : Word}
    (h : s.access z .write (s.privileged && !u) a = none) : s.store z u a v = .ok (s.put z a v) := by
  unfold State.store; rw [h]

theorem State.store_error {s : State} {z : Size} {u : Bool} {a v : Word} {e : Stop} (h : s.store z u a v = .error e) :
    s.access z .write (s.privileged && !u) a = some e := by
  unfold State.store at h
  split at h
  · rename_i e' h1; rw [h1]; simpa using h
  · simp at h

/-- Loads of accessible words read them all. -/
theorem State.loadAll_of_access {s : State} (l : List Word)
    (h : ∀ a ∈ l, s.access .word .read s.privileged a = none) : s.loadAll l = .ok (l.map (s.value .word)) := by
  induction l with
  | nil => rfl
  | cons a l ih =>
    unfold State.loadAll
    rw [State.load_of_access (by simpa using h a (by simp)), ih fun b hb => h b (by simp [hb])]
    rfl

theorem State.loadAll_ok {s : State} {l vs : List Word} (h : s.loadAll l = .ok vs) :
    vs = l.map (s.value .word) := by
  induction l generalizing vs with
  | nil => simpa [State.loadAll] using h.symm
  | cons a l ih =>
    unfold State.loadAll at h
    split at h
    · simp at h
    · rename_i v hv
      split at h
      · simp at h
      · rename_i ws hw
        rw [ih hw] at h
        simpa [(State.load_ok hv).2] using h.symm

/-- What loads leave, and what stops them, in the state `s`: the first access that is stopped. -/
theorem State.loadAll_error {s : State} {l : List Word} {e : Stop} (h : s.loadAll l = .error e) :
    ∃ a ∈ l, s.access .word .read s.privileged a = some e := by
  induction l with
  | nil => simp [State.loadAll] at h
  | cons a l ih =>
    unfold State.loadAll at h
    split at h
    · rename_i e' he
      have : e' = e := by simpa using h
      subst this
      exact ⟨a, by simp, by simpa using State.load_error he⟩
    · split at h
      · rename_i e' he
        have : e' = e := by simpa using h
        subst this
        obtain ⟨b, hb, h'⟩ := ih he
        exact ⟨b, by simp [hb], h'⟩
      · simp at h

/-- A state that differs from `s` in memory and the list of stored words alone. -/
def onlyMemory (s t : State) : Prop := t = { s with mem := t.mem, stored := t.stored }

theorem onlyMemory_refl (s : State) : onlyMemory s s := rfl

theorem onlyMemory_put (s : State) (z : Size) (a v : Word) : onlyMemory s (s.put z a v) := rfl

theorem onlyMemory_trans {s t u : State} (h : onlyMemory s t) (h' : onlyMemory t u) : onlyMemory s u := by
  unfold onlyMemory at *
  rw [h'] ; rw [h]

/-- Stores of words change memory and the list of stored words alone, stopped or not. -/
theorem State.storeAll_onlyMemory (s : State) (l : List (Word × Word)) : onlyMemory s (s.storeAll l).1 := by
  induction l generalizing s with
  | nil => exact onlyMemory_refl s
  | cons x l ih =>
    unfold State.storeAll
    split
    · exact onlyMemory_refl s
    · rename_i t ht
      rw [(State.store_ok ht).2]
      exact onlyMemory_trans (onlyMemory_put s _ _ _) (ih _)

/-- A property of states that every accessible store keeps is kept by a run of stores. -/
theorem State.storeAll_keeps (P : State → Prop) (l : List (Word × Word)) (s : State) (hs : P s)
    (hP : ∀ t, onlyMemory s t → P t → ∀ x ∈ l, t.access .word .write t.privileged x.1 = none →
      P (t.put .word x.1 x.2)) : P (s.storeAll l).1 := by
  induction l generalizing s with
  | nil => exact hs
  | cons x l ih =>
    unfold State.storeAll
    split
    · exact hs
    · rename_i t ht
      obtain ⟨h1, rfl⟩ := State.store_ok ht
      refine ih _ (hP s (onlyMemory_refl s) hs x (by simp) (by simpa using h1)) fun t ht' hPt y hy => ?_
      exact hP t (onlyMemory_trans (onlyMemory_put s _ _ _) ht') hPt y (by simp [hy])

/-- Words stored where every access goes through: nothing stops them. -/
theorem State.storeAll_of_access (l : List (Word × Word)) (s : State)
    (h : ∀ x ∈ l, s.access .word .write s.privileged x.1 = none) :
    s.storeAll l = (l.foldl (fun t x => t.put .word x.1 x.2) s, none) := by
  induction l generalizing s with
  | nil => rfl
  | cons x l ih =>
    unfold State.storeAll
    rw [State.store_of_access (by simpa using h x (by simp))]
    simp only [List.foldl_cons]
    refine ih _ fun y hy => ?_
    have := h y (by simp [hy])
    rw [← State.access_congr (s := s) (t := s.put .word x.1 x.2) rfl] at this
    exact this

/-- What a fetch can answer (20_memory R72, R90). -/
theorem State.fetch_ok {s : State} {w : Word} (h : s.fetch = .ok w) :
    s.access .word .fetch s.privileged s.pc = none ∧ s.pc.toNat ∉ s.stored ∧ w = Memory.readWord s.mem s.pc.toNat := by
  unfold State.fetch at h
  split at h
  · simp at h
  · rename_i h1
    split at h
    · simp at h
    · rename_i h2; exact ⟨h1, h2, by simpa using h.symm⟩

theorem State.fetch_error {s : State} {e : Stop} (h : s.fetch = .error e) :
    e = .exc .prefetchAbort ∨ e = .fault .unbackedAddress ∨ e = .refuse .fetchOfModifiedCode := by
  unfold State.fetch at h
  split at h
  · rename_i e' h1
    have : e' = e := by simpa using h
    subst this
    rcases State.access_some h1 with ⟨-, hk, -⟩ | h2 | h2
    · exact absurd rfl hk
    · exact .inl (by simpa using h2)
    · exact .inr (.inl h2)
  · split at h
    · exact .inr (.inr (by simpa using h.symm))
    · simp at h

/-! ## The step -/

/-- A fetched word that decodes is its instruction (40_condition_codes R141). -/
theorem runWord_ok {s : State} {w : Word} {i : Instr} (h : decode s.cfg.variant w = .ok i) :
    runWord w s = exec i s := by
  unfold runWord; rw [h]

/-- What one step can be: the reset event, an interrupt taken, or the instruction (60_exceptions R364). -/
theorem step_cases (s : State) :
    ((s.inputs.headD quiet).reset = true ∧ step s = .next (resetEvent s.sampled)) ∨
    ((s.inputs.headD quiet).fiq = true ∧ s.psr.f = false ∧ step s = takeException .fiq s.sampled) ∨
    ((s.inputs.headD quiet).irq = true ∧ s.psr.i = false ∧ step s = takeException .irq s.sampled) ∨
    step s = runInstruction s.sampled := by
  unfold step cycle
  simp only
  split
  · rename_i h; exact .inl ⟨h, rfl⟩
  · split
    · rename_i h; simp only [Bool.and_eq_true, Bool.not_eq_true'] at h; exact .inr (.inl ⟨h.1, h.2, rfl⟩)
    · split
      · rename_i h; simp only [Bool.and_eq_true, Bool.not_eq_true'] at h; exact .inr (.inr (.inl ⟨h.1, h.2, rfl⟩))
      · exact .inr (.inr (.inr rfl))

/-- With no reset and no enabled interrupt the step is the instruction. -/
theorem step_undisturbed {s : State} (h : s.undisturbed = true) : step s = runInstruction s.sampled := by
  unfold State.undisturbed at h
  simp only [Bool.and_eq_true, Bool.not_eq_true'] at h
  unfold step cycle
  simp only [h.1.1, h.1.2, h.2]
  rfl

/-- What running the instruction at `pc` can answer: an exception for its fetch, or what the word does. -/
theorem runInstruction_next {s t : State} (h : runInstruction s = .next t) :
    takeException .prefetchAbort s = .next t ∨
      ∃ w, s.fetch = .ok w ∧ runWord w s = .next t := by
  unfold runInstruction at h
  split at h
  · simp at h
  · rcases andThen_next h with ⟨x, hx, h⟩ | h
    · rcases State.fetch_error hx with hx | hx | hx
      · cases hx; exact .inl h
      · cases hx
      · cases hx
    · exact .inr h

end Sys2Proof.Machine
end

