-- ==== Sys2Proof/Laws/Arithmetic.lean ====
section
/-!
SUPPORT. The adder and the operations: their results and flags are those of the spec's table (41_data_processing R150,
R160).
-/

namespace Sys2Proof.Machine

theorem addWithCarry_value (a b : Word) (c : Bool) : (addWithCarry a b c).value = a + b + carryWord c := by
  apply BitVec.eq_of_toNat_eq
  cases c <;> simp [addWithCarry, carryWord]

theorem addWithCarry_carry (a b : Word) (c : Bool) :
    (addWithCarry a b c).c = decide (2 ^ 32 ≤ a.toNat + b.toNat + c.toNat) := rfl

theorem toInt_ofNat_mod (n : Nat) : (BitVec.ofNat 32 n).toInt = ((n : Int) + 2 ^ 31) % 2 ^ 32 - 2 ^ 31 := by
  have h := BitVec.toInt_eq_toNat_cond (BitVec.ofNat 32 n)
  rw [BitVec.toNat_ofNat] at h
  rw [h]; split <;> omega

theorem addWithCarry_overflow (a b : Word) (c : Bool) :
    (addWithCarry a b c).v = overflows (a.toInt + b.toInt + c.toNat) := by
  have ha := BitVec.toInt_eq_toNat_cond a
  have hb := BitVec.toInt_eq_toNat_cond b
  have h1 := a.isLt
  have h2 := b.isLt
  have h3 := c.toNat_lt
  simp only [addWithCarry, overflows, decide_eq_decide]
  rw [toInt_ofNat_mod, ha, hb]
  push_cast
  split <;> split <;> omega

/-- The value of an operation is the P-code column of the table. -/
theorem alu_value (op : AluOp) (a b : Word) (sc : Bool) (p : Psr) : (alu op a b sc p).value = pcode op a b p.c := by
  cases op <;> simp only [alu, pcode, addWithCarry_value]
  all_goals (try (simp [carryWord, borrowWord]))
  all_goals (cases p.c <;> simp [BitVec.sub_eq_add_neg, BitVec.neg_eq_not_add] <;> bv_omega)

theorem toInt_complement (b : Word) : (~~~b).toInt = - b.toInt - 1 := by
  have := BitVec.toInt_eq_toNat_cond b
  have h' := BitVec.toInt_eq_toNat_cond (~~~b)
  have hb := b.isLt
  rw [BitVec.toNat_not] at h'
  rw [h', this]
  split <;> split <;> omega

/-- The carry and overflow of an operation are those of the table. -/
theorem alu_flags (op : AluOp) (a b : Word) (sc : Bool) (p : Psr) :
    (alu op a b sc p).c = pcodeCarry op a b p.c sc ∧ (alu op a b sc p).v = pcodeOverflow op a b p.c p.v := by
  have ha := a.isLt
  have hb := b.isLt
  have e : ∀ p q : Prop, [Decidable p] → [Decidable q] → (p ↔ q) → decide p = decide q :=
    fun p q _ _ h => decide_eq_decide.2 h
  cases op <;> (first | exact ⟨rfl, rfl⟩ | skip) <;>
    simp only [alu, pcodeCarry, pcodeOverflow, addWithCarry_carry, addWithCarry_overflow, BitVec.toNat_not,
      toInt_complement, carryWord, borrowWord, overflows] <;> cases p.c <;>
    refine ⟨e _ _ ?_, e _ _ ?_⟩ <;>
    simp only [Bool.toNat_true, Bool.toNat_false, if_true, if_false, Bool.false_eq_true, BitVec.toNat_ofNat] <;> omega

end Sys2Proof.Machine
end

