-- ==== Sys2Proof/Laws/Families.lean ====
section
/-!
SUPPORT. The families of instructions by their fields: what `exec` of one is, and small facts their rules share.
-/

namespace Sys2Proof.Machine

theorem exec_dpInstr (op : AluOp) (c : Cond) (sb : Bool) (rn rd : Reg) (o : Op2) (s : State) :
    exec (dpInstr op c sb rn rd o) s = dataProc op c sb rn rd o s := by
  cases op <;> cases o <;> rfl

theorem exec_testInstr (k : TestOp) (c : Cond) (rn rd : Reg) (o : Op2) (s : State) :
    exec (testInstr k c rn rd o) s = dataTest k.op c rn o s := by
  cases k <;> cases o <;> rfl

theorem exec_testPInstr (k : TestOp) (c : Cond) (rn : Reg) (o : Op2) (s : State) :
    exec (testPInstr k c rn o) s = dataTestP k.op c rn o s := by
  cases k <;> cases o <;> rfl

theorem exec_transferInstr (l : Bool) (z : Size) (c : Cond) (p u w : Bool) (rn rd : Reg) (o : Offset) (s : State) :
    exec (transferInstr l z c p u w rn rd o) s = singleTransfer l z c p u w rn rd o s := by
  cases l <;> cases z <;> cases p <;> cases w <;> cases o <;> rfl

theorem exec_blockInstr (l p u : Bool) (c : Cond) (sb w : Bool) (rn : Reg) (list : BitVec 16) (s : State) :
    exec (blockInstr l p u c sb w rn list) s =
      if l then blockLoad p u c sb w rn list s else blockStore p u c sb w rn list s := by
  cases l <;> cases p <;> cases u <;> rfl

/-- The refusal of R15 in a register-specified shift (41_data_processing R157). -/
theorem Op2.refusal_eq (o : Op2) (named : List Reg) :
    o.refusal named = if shiftsWithR15 o named = true then some .r15WithRegisterShift else none := by
  cases o with
  | imm => rfl
  | reg => rfl
  | regShift rs sh rm =>
    have : (15#4 ∈ rs :: rm :: named) ↔ shiftsWithR15 (.regShift rs sh rm) named = true := by
      simp [shiftsWithR15, List.any_eq_true, or_assoc, eq_comm (a := 15#4)]
    simp only [Op2.refusal, this]

/-- The successor depends on the mode and `pc` alone. -/
theorem State.successor_congr {s t : State} (hm : t.psr.mode = s.psr.mode) (hp : t.pc = s.pc) :
    t.successor = s.successor := by
  simp only [State.successor, State.mode26, hm, hp]; rfl

/-- What a data processing instruction computes, in the terms of the table. -/
theorem State.aluResult_value (s : State) (op : AluOp) (rn : Reg) (o : Op2) :
    (s.aluResult op rn o).value = pcode op (s.reg rn) (s.shifterOperand o).value s.psr.c :=
  alu_value op _ _ _ _

/-- The PSR that the result of an operation leaves, in the terms of the table. -/
theorem State.aluResult_psr (s : State) (op : AluOp) (rn : Reg) (o : Op2) :
    s.psr.withFlags (s.aluResult op rn o).value (s.aluResult op rn o).c (s.aluResult op rn o).v =
      pcodePsr op (s.reg rn) (s.shifterOperand o).value (s.shifterOperand o).carry s.psr := by
  have h := alu_flags op (s.reg rn) (s.shifterOperand o).value (s.shifterOperand o).carry s.psr
  have hv := alu_value op (s.reg rn) (s.shifterOperand o).value (s.shifterOperand o).carry s.psr
  simp only [State.aluResult, Psr.withFlags, pcodePsr, h.1, h.2, hv]

/-- A PSR written from a word in the layout of R15, in the terms of the statements. -/
theorem Psr.writeR15_eq (p : Psr) (w : Word) : p.writeR15 w = r15Psr p w := by
  unfold Psr.writeR15 r15Psr Psr.withTopFlags field
  split <;> rfl

end Sys2Proof.Machine
end

