-- ==== Sys2Proof/Laws/Invariant.lean ====
section
/-!
SUPPORT. What the shared operations do to the parts of the invariant of the machine.
-/

namespace Sys2Proof.Machine

theorem State.inv_iff (s : State) : s.Inv = true ↔
    s.modeFits = true ∧ s.pcFits = true ∧ Memory.wf s.mem = true ∧ s.memFits = true ∧ s.storedFits = true := by
  simp only [State.Inv, Bool.and_eq_true, and_assoc]

/-- The invariant looks at the configuration, the mode, `pc`, memory and the stored words. -/
theorem State.inv_congr {s t : State} (h1 : t.cfg = s.cfg) (h2 : t.psr.mode = s.psr.mode) (h3 : t.pc = s.pc)
    (h4 : t.mem = s.mem) (h5 : t.stored = s.stored) : t.Inv = s.Inv := by
  simp only [State.Inv, State.modeFits, State.pcFits, State.memFits, State.storedFits, State.mode26, h1, h2, h3, h4, h5]

theorem Word.aligned_iff (a : Word) : Word.aligned a = true ↔ a.toNat % 4 = 0 := by
  simp only [Word.aligned, beq_iff_eq]
  rw [← BitVec.toNat_inj]
  simp

theorem and_26_toNat (a : Word) : (a &&& 0x03FFFFFF#32).toNat = a.toNat % 2 ^ 26 := by
  rw [BitVec.toNat_and]
  exact Nat.and_two_pow_sub_one_eq_mod a.toNat 26

theorem and_word26_toNat (a : Word) : (a &&& 0x03FFFFFC#32).toNat = a.toNat / 4 % 2 ^ 24 * 4 := by
  have h : a &&& 0x03FFFFFC#32 = ((a.extractLsb' 2 24).setWidth 32) <<< 2 := by
    ext i hi
    simp only [BitVec.getElem_and, BitVec.getElem_shiftLeft, BitVec.getElem_setWidth, BitVec.getLsbD_extractLsb']
    interval_cases i <;> simp
  rw [h]
  simp only [BitVec.toNat_shiftLeft, BitVec.toNat_setWidth, BitVec.extractLsb'_toNat, Nat.shiftLeft_eq,
    Nat.shiftRight_eq_div_pow]
  omega

theorem and_word32_toNat (a : Word) : (a &&& 0xFFFFFFFC#32).toNat = a.toNat / 4 * 4 := by
  have h : a &&& 0xFFFFFFFC#32 = ((a.extractLsb' 2 30).setWidth 32) <<< 2 := by
    ext i hi
    simp only [BitVec.getElem_and, BitVec.getElem_shiftLeft, BitVec.getElem_setWidth, BitVec.getLsbD_extractLsb']
    interval_cases i <;> simp
  rw [h]
  simp only [BitVec.toNat_shiftLeft, BitVec.toNat_setWidth, BitVec.extractLsb'_toNat, Nat.shiftLeft_eq,
    Nat.shiftRight_eq_div_pow]
  have := a.isLt
  omega

/-- Where `pc` may stand in a mode (10_state R27). -/
theorem State.pcFits_iff (s : State) :
    s.pcFits = true ↔ s.pc.toNat % 4 = 0 ∧ (s.psr.mode.is26 = true → s.pc.toNat < 2 ^ 26) := by
  unfold State.pcFits State.mode26
  rw [Bool.and_eq_true, Word.aligned_iff, Bool.or_eq_true, Bool.not_eq_true', decide_eq_true_eq]
  cases s.psr.mode.is26 <;> simp

/-- The successor of a `pc` that fits, fits. -/
theorem State.successor_fits (s : State) (h : s.pc.toNat % 4 = 0) :
    s.successor.toNat % 4 = 0 ∧ (s.psr.mode.is26 = true → s.successor.toNat < 2 ^ 26) := by
  unfold State.successor State.mode26
  split
  · rw [and_26_toNat]
    refine ⟨?_, fun _ => Nat.mod_lt _ (by decide)⟩
    rw [BitVec.toNat_add]
    simp; omega
  · rename_i h'
    refine ⟨?_, fun h => absurd h h'⟩
    rw [BitVec.toNat_add]
    simp; omega

/-- A value written into `pc` fits. -/
theorem State.pcTarget_fits (s : State) (v : Word) :
    (s.pcTarget v).toNat % 4 = 0 ∧ (s.psr.mode.is26 = true → (s.pcTarget v).toNat < 2 ^ 26) := by
  unfold State.pcTarget State.mode26
  split
  · rw [and_word26_toNat]; omega
  · rename_i h'
    rw [and_word32_toNat]
    exact ⟨by omega, fun h => absurd h h'⟩

/-- The invariant after a change of `pc` and PSR (and of what it does not look at). -/
theorem State.inv_of_pc {s t : State} (hs : s.Inv = true) (h1 : t.cfg = s.cfg) (h4 : t.mem = s.mem)
    (h5 : t.stored = s.stored) (hm : s.cfg.variant.hasPsr32 = true ∨ t.psr.mode.is26 = true)
    (hp : t.pc.toNat % 4 = 0 ∧ (t.psr.mode.is26 = true → t.pc.toNat < 2 ^ 26)) : t.Inv = true := by
  rw [State.inv_iff] at hs ⊢
  obtain ⟨-, -, w, mf, sf⟩ := hs
  refine ⟨?_, (State.pcFits_iff t).2 hp, by rw [h4]; exact w, ?_, ?_⟩
  · simpa [State.modeFits, State.mode26, h1] using hm
  · simpa only [State.memFits, h1, h4] using mf
  · simpa only [State.storedFits, h1, h5] using sf

theorem State.inv_mode {s : State} (hs : s.Inv = true) :
    s.cfg.variant.hasPsr32 = true ∨ s.psr.mode.is26 = true := by
  simpa [State.modeFits, State.mode26] using ((State.inv_iff s).1 hs).1

theorem State.inv_pc {s : State} (hs : s.Inv = true) :
    s.pc.toNat % 4 = 0 ∧ (s.psr.mode.is26 = true → s.pc.toNat < 2 ^ 26) :=
  (State.pcFits_iff s).1 ((State.inv_iff s).1 hs).2.1

/-- On to the next instruction, in the same mode. -/
theorem State.inv_advance {s : State} (hs : s.Inv = true) : s.advance.Inv = true :=
  State.inv_of_pc hs rfl rfl rfl (State.inv_mode hs) (s.successor_fits (State.inv_pc hs).1)

theorem addrsRise_insert {lo a : Nat} (l : List Nat) (ha : lo ≤ a) (h : addrsRise lo l = true) :
    addrsRise lo (insertAddr a l) = true := by
  induction l generalizing lo with
  | nil => simp [insertAddr, addrsRise, ha]
  | cons b l ih =>
    have h' := h
    simp only [addrsRise, Bool.and_eq_true, decide_eq_true_eq] at h'
    unfold insertAddr
    split
    · simp only [addrsRise, Bool.and_eq_true, decide_eq_true_eq]; exact ⟨ha, by omega, h'.2⟩
    · split
      · exact h
      · simp only [addrsRise, Bool.and_eq_true, decide_eq_true_eq]; exact ⟨h'.1, ih (by omega) h'.2⟩

theorem all_insert (P : Nat → Bool) {a : Nat} (l : List Nat) (ha : P a = true) (h : l.all P = true) :
    (insertAddr a l).all P = true := by
  rw [List.all_eq_true] at *
  intro b hb
  rcases (insertAddr_mem a b l).1 hb with rfl | hb
  · exact ha
  · exact h b hb

/-- A store inside the address space keeps the invariant (20_memory R75, R90). -/
theorem State.inv_put {s : State} {z : Size} {a v : Word} (hs : s.Inv = true) (hf : z.fits a = true)
    (ha : a.toNat < 2 ^ s.cfg.variant.addrBits) : (s.put z a v).Inv = true := by
  rw [State.inv_iff] at hs ⊢
  obtain ⟨m, p, w, mf, sf⟩ := hs
  have hb : s.cfg.variant.addrBits = 26 ∨ s.cfg.variant.addrBits = 32 := by
    unfold Variant.addrBits; split <;> simp
  refine ⟨m, p, Memory.wf_writeBytes _ _ _ w, ?_, ?_⟩
  · unfold State.memFits
    refine Memory.all_writeBytes (fun x => decide (x < 2 ^ s.cfg.variant.addrBits)) s.mem a.toNat _ (fun i hi => ?_) mf
    simp only [decide_eq_true_eq]
    cases z with
    | byte => simp at hi; subst hi; simpa using ha
    | word =>
      have := (Word.aligned_iff a).1 hf
      simp at hi
      rcases hb with h | h <;> rw [h] at ha ⊢ <;> omega
  · unfold State.storedFits at sf ⊢
    rw [Bool.and_eq_true] at sf ⊢
    refine ⟨addrsRise_insert _ (Nat.zero_le _) sf.1, all_insert _ _ ?_ sf.2⟩
    simp only [State.put, Bool.and_eq_true, decide_eq_true_eq]
    exact ⟨by omega, decide_eq_true (Nat.lt_of_le_of_lt (Nat.sub_le _ _) ha)⟩

/-- The modes entered are modes of the part. -/
theorem Exc.mode_is26 (e : Exc) : (e.mode false).is26 = true := by cases e <;> rfl

theorem entry32_hasPsr32 {g : Cfg} (h : g.entry32 = true) : g.variant.hasPsr32 = true := by
  simp only [Cfg.entry32, Bool.and_eq_true] at h; exact h.1

/-- Exception entry keeps the invariant (60_exceptions R355). -/
theorem takeException_inv {e : Exc} {s t : State} (hs : s.Inv = true) (h : takeException e s = .next t) :
    t.Inv = true := by
  have hv : ∀ m : Mode, e.vector.toNat % 4 = 0 ∧ (m.is26 = true → e.vector.toNat < 2 ^ 26) := by
    intro m; cases e <;> exact ⟨by decide, fun _ => by decide⟩
  rcases takeException_next h with ⟨h1, rfl⟩ | ⟨h1, -, rfl⟩
  · refine State.inv_of_pc hs ?_ ?_ ?_ (.inl (entry32_hasPsr32 h1)) (hv _) <;> simp
  · refine State.inv_of_pc hs ?_ ?_ ?_ (.inr ?_) ?_
    · simp
    · simp
    · simp
    · simp [h1, Exc.mode_is26]
    · rw [State.losesSpsr_pc, State.enter_pc]; exact hv _

/-- A mode named by R15 is a 26-bit one (10_state R26). -/
theorem Mode.ofR15_is26 (b : BitVec 2) : (Mode.ofR15 b).is26 = true := by revert b; decide

theorem Psr.writeR15_is26 (p : Psr) (w : Word) (h : p.mode.is26 = true) : (p.writeR15 w).mode.is26 = true := by
  unfold Psr.writeR15
  split
  · exact Mode.ofR15_is26 _
  · exact h

/-- A write of R15, with or without the PSR, keeps the invariant (60_exceptions R370). -/
theorem State.writeR15_inv {s t : State} {u : Refusal} {r : Bool} {v : Word} (hs : s.Inv = true)
    (h : s.writeR15 u r v = .ok t) : t.Inv = true := by
  rcases State.writeR15_ok h with ⟨-, rfl⟩ | ⟨-, hm, rfl⟩ | ⟨-, hm, b, m, -, -, hlt, rfl⟩
  · exact State.inv_of_pc hs rfl rfl rfl (State.inv_mode hs) (s.pcTarget_fits v)
  · exact State.inv_of_pc hs rfl rfl rfl (.inr (Psr.writeR15_is26 _ _ hm))
      ⟨(s.pcTarget_fits v).1, fun _ => (s.pcTarget_fits v).2 hm⟩
  · refine State.inv_of_pc hs rfl rfl rfl (.inl ?_) ⟨(s.pcTarget_fits v).1, hlt⟩
    rcases State.inv_mode hs with h | h
    · exact h
    · rw [State.mode26] at hm; rw [hm] at h; cases h

end Sys2Proof.Machine
end

