-- ==== Sys2Proof/Laws/Block.lean ====
section
/-!
SUPPORT. The register list of a block transfer, its addresses (45_block_data_transfer R262), and what its loads and
stores leave.
-/

namespace Sys2Proof.Machine

/-! ## The list -/

theorem mem_listRegs (list : BitVec 16) (r : Reg) : r ∈ listRegs list ↔ list.getLsbD r.toNat = true := by
  unfold listRegs
  rw [List.mem_filter]
  have : ∀ r : Reg, r ∈ [0#4, 1#4, 2#4, 3#4, 4#4, 5#4, 6#4, 7#4, 8#4, 9#4, 10#4, 11#4, 12#4, 13#4, 14#4, 15#4] := by
    decide
  simp [this r]

/-- The registers of a list ascend (45_block_data_transfer R262). -/
theorem listRegs_ascend (list : BitVec 16) : (listRegs list).Pairwise fun q r => q.toNat < r.toNat :=
  List.Pairwise.filter _ (by decide)

theorem listRegs_nodup (list : BitVec 16) : (listRegs list).Nodup :=
  (listRegs_ascend list).imp fun h e => absurd (congrArg BitVec.toNat e) (Nat.ne_of_lt h)

theorem listRegs_length (list : BitVec 16) : (listRegs list).length ≤ 16 :=
  (List.length_filter_le _ _).trans (by decide)

/-- The list around one of its registers: the registers before it are the lower ones. -/
theorem listRegs_split (list : BitVec 16) (r : Reg) (h : list.getLsbD r.toNat = true) :
    ∃ pre post, listRegs list = pre ++ r :: post ∧
      ∀ q, q ∈ pre ↔ (list.getLsbD q.toNat = true ∧ q.toNat < r.toNat) := by
  obtain ⟨pre, post, e⟩ := List.append_of_mem ((mem_listRegs list r).2 h)
  have hp := listRegs_ascend list
  rw [e, List.pairwise_append, List.pairwise_cons] at hp
  refine ⟨pre, post, e, fun q => ⟨fun hq => ?_, fun ⟨h1, h2⟩ => ?_⟩⟩
  · exact ⟨(mem_listRegs list q).1 (by rw [e]; simp [hq]), hp.2.2 q hq r (by simp)⟩
  · have hq := (mem_listRegs list q).2 h1
    rw [e] at hq
    simp only [List.mem_append, List.mem_cons] at hq
    rcases hq with hq | rfl | hq
    · exact hq
    · omega
    · have := hp.2.1.1 q hq; omega

/-- R15 comes last. -/
theorem listRegs_r15 (list : BitVec 16) (h : list.getLsbD 15 = true) : ∃ pre, listRegs list = pre ++ [15#4] := by
  obtain ⟨pre, post, e, -⟩ := listRegs_split list 15#4 h
  have hp := listRegs_ascend list
  rw [e, List.pairwise_append, List.pairwise_cons] at hp
  cases post with
  | nil => exact ⟨pre, e⟩
  | cons q post =>
    have := hp.2.1.1 q (by simp)
    have := q.isLt
    simp at *
    omega

/-- In an ascending list, as many entries are lower than an entry as stand before it. -/
theorem length_lower (l : List Reg) (h : l.Pairwise fun q r => q.toNat < r.toNat) (j : Nat) (hj : j < l.length) :
    (l.filter fun q => decide (q.toNat < l[j].toNat)).length = j := by
  induction l generalizing j with
  | nil => cases hj
  | cons a l ih =>
    rw [List.pairwise_cons] at h
    cases j with
    | zero =>
      rw [List.length_eq_zero_iff, List.filter_eq_nil_iff]
      intro q hq
      simp only [List.getElem_cons_zero, decide_eq_true_eq]
      rcases List.mem_cons.1 hq with rfl | hq
      · omega
      · have := h.1 q hq; omega
    | succ j =>
      have hj' : j < l.length := by simpa using hj
      simp only [List.getElem_cons_succ]
      have ha : a.toNat < l[j].toNat := h.1 _ (List.getElem_mem hj')
      rw [List.filter_cons_of_pos (by simpa using ha), List.length_cons, ih h.2 j hj']

/-- The rank of the `j`-th register of the list is `j`. -/
theorem rankIn_getElem (list : BitVec 16) (j : Nat) (hj : j < (listRegs list).length) :
    rankIn list (listRegs list)[j] = j :=
  length_lower _ (listRegs_ascend list) j hj

theorem rankIn_lt (list : BitVec 16) (r : Reg) (h : list.getLsbD r.toNat = true) :
    rankIn list r < (listRegs list).length := by
  obtain ⟨j, hj, rfl⟩ := List.getElem_of_mem ((mem_listRegs list r).2 h)
  rw [rankIn_getElem]; exact hj

theorem rankIn_lt_iff (list : BitVec 16) (q r : Reg) (hq : list.getLsbD q.toNat = true)
    (hr : list.getLsbD r.toNat = true) : rankIn list q < rankIn list r ↔ q.toNat < r.toNat := by
  obtain ⟨i, hi, rfl⟩ := List.getElem_of_mem ((mem_listRegs list q).2 hq)
  obtain ⟨j, hj, rfl⟩ := List.getElem_of_mem ((mem_listRegs list r).2 hr)
  rw [rankIn_getElem, rankIn_getElem]
  have h := List.pairwise_iff_getElem.1 (listRegs_ascend list)
  rcases Nat.lt_trichotomy i j with hij | rfl | hij
  · have := h i j hi hj hij; omega
  · simp
  · have := h j i hj hi hij; omega

/-! ## The addresses -/

theorem wordAddrs_length (a : Word) (n : Nat) : (wordAddrs a n).length = n := by
  induction n generalizing a with
  | zero => rfl
  | succ n ih => simp [wordAddrs, ih]

theorem wordAddrs_getElem (a : Word) (n j : Nat) (h : j < (wordAddrs a n).length) :
    (wordAddrs a n)[j] = a + BitVec.ofNat 32 (4 * j) := by
  induction n generalizing a j with
  | zero => cases h
  | succ n ih =>
    cases j with
    | zero => simp [wordAddrs]
    | succ j =>
      simp only [wordAddrs, List.getElem_cons_succ]
      rw [ih]
      apply BitVec.eq_of_toNat_eq
      simp only [BitVec.toNat_add, BitVec.toNat_ofNat]
      omega

/-- The addresses from `a` up, each by its distance. -/
theorem wordAddrs_eq (a : Word) (n : Nat) :
    wordAddrs a n = (List.range n).map fun j => a + BitVec.ofNat 32 (4 * j) := by
  apply List.ext_getElem
  · simp [wordAddrs_length]
  · intro j h1 h2
    rw [wordAddrs_getElem]; simp

theorem blockStart_eq (p u : Bool) (b : Word) (list : BitVec 16) :
    blockStart p u b list = blockLowest p u b (listRegs list).length := by
  cases p <;> cases u <;> rfl

theorem blockFinal_eq (u : Bool) (b : Word) (list : BitVec 16) :
    blockFinal u b list = blockAfter u b (listRegs list).length := by
  cases u <;> rfl

/-- The addresses of a block transfer are those of its registers, in order. -/
theorem State.blockAddrs_eq (s : State) (p u : Bool) (rn : Reg) (list : BitVec 16) :
    s.blockAddrs p u rn list = (listRegs list).map (blockWordAddr p u (s.reg rn) list) := by
  apply List.ext_getElem
  · simp [State.blockAddrs, wordAddrs_length]
  · intro j h1 h2
    simp only [State.blockAddrs, wordAddrs_getElem, List.getElem_map, blockWordAddr, blockStart_eq]
    rw [rankIn_getElem]

theorem zip_map_self {α β : Type} (l : List α) (f : α → β) : l.zip (l.map f) = l.map fun a => (a, f a) := by
  induction l with
  | nil => rfl
  | cons a l ih => simp [ih]

theorem zip_map_map {α β γ : Type} (l : List α) (f : α → β) (g : α → γ) :
    (l.map f).zip (l.map g) = l.map fun a => (f a, g a) := by
  induction l with
  | nil => rfl
  | cons a l ih => simp [ih]

/-- Alignment of the base is alignment of every word (45_block_data_transfer R264). -/
theorem Word.aligned_add (a : Word) (n : Nat) (h : Word.aligned a = true) :
    Word.aligned (a + BitVec.ofNat 32 (4 * n)) = true := by
  rw [Word.aligned_iff] at h ⊢
  rw [BitVec.toNat_add, BitVec.toNat_ofNat]; omega

theorem Word.aligned_sub (a : Word) (n : Nat) (h : Word.aligned a = true) :
    Word.aligned (a - BitVec.ofNat 32 (4 * n)) = true := by
  rw [Word.aligned_iff] at h ⊢
  rw [BitVec.toNat_sub, BitVec.toNat_ofNat]; omega

theorem blockLowest_aligned (p u : Bool) (b : Word) (n : Nat) (h : Word.aligned b = true) :
    Word.aligned (blockLowest p u b n) = true := by
  have h4 := fun a => Word.aligned_add a 1
  have hs := Word.aligned_sub b n h
  cases u <;> cases p
  · exact h4 _ hs
  · exact hs
  · exact h
  · exact h4 _ h

theorem blockWordAddr_aligned (p u : Bool) (b : Word) (list : BitVec 16) (r : Reg) (h : Word.aligned b = true) :
    Word.aligned (blockWordAddr p u b list r) = true :=
  Word.aligned_add _ _ (blockLowest_aligned p u b _ h)

/-- Two registers of the list have two words. -/
theorem blockWordAddr_injective (p u : Bool) (b : Word) (list : BitVec 16) (q r : Reg)
    (hq : list.getLsbD q.toNat = true) (hr : list.getLsbD r.toNat = true)
    (h : blockWordAddr p u b list q = blockWordAddr p u b list r) : q = r := by
  have h1 := rankIn_lt list q hq
  have h2 := rankIn_lt list r hr
  have h3 := listRegs_length list
  have e : rankIn list q = rankIn list r := by
    unfold blockWordAddr at h
    have := congrArg BitVec.toNat h
    simp only [BitVec.toNat_add, BitVec.toNat_ofNat] at this
    omega
  have h5 := rankIn_lt_iff list q r hq hr
  have h6 := rankIn_lt_iff list r q hr hq
  apply BitVec.eq_of_toNat_eq
  omega

/-! ## The loads into registers -/

theorem State.blockLoadReg_read (user : Bool) (s : State) (r : Reg) (v : Word) (p : PReg) :
    (State.blockLoadReg user s (r, v)).regs.read p =
      if (if user then Mode.usr32 else s.psr.mode).preg r = some p then v else s.regs.read p := by
  unfold State.blockLoadReg
  split
  · rename_i h; have h : r = 15#4 := h; subst h; simp
  · split
    · simp [State.setUserReg_read, *]
    · simp [State.setReg_read, *]

theorem State.blockLoadRegs_only (s : State) (user : Bool) (l : List (Reg × Word)) :
    s.blockLoadRegs user l = { s with regs := (s.blockLoadRegs user l).regs } := by
  unfold State.blockLoadRegs
  induction l generalizing s with
  | nil => rfl
  | cons x l ih =>
    rw [List.foldl_cons, ih]
    have : State.blockLoadReg user s x = { s with regs := (State.blockLoadReg user s x).regs } := by
      unfold State.blockLoadReg State.setReg State.setUserReg
      split
      · rfl
      · split <;> split <;> rfl
    rw [this]

/-- What the loaded words leave in each physical register: the word of the one register of the list that is it. -/
theorem State.blockLoadRegs_read (s : State) (user : Bool) (l : List Reg) (g : Reg → Word) (hl : l.Nodup) (p : PReg) :
    (∀ r ∈ l, (if user then Mode.usr32 else s.psr.mode).preg r = some p →
      (s.blockLoadRegs user (l.map fun r => (r, g r))).regs.read p = g r) ∧
    ((∀ r ∈ l, (if user then Mode.usr32 else s.psr.mode).preg r ≠ some p) →
      (s.blockLoadRegs user (l.map fun r => (r, g r))).regs.read p = s.regs.read p) := by
  induction l generalizing s with
  | nil => simp [State.blockLoadRegs]
  | cons a l ih =>
    rw [List.nodup_cons] at hl
    have hmode : (State.blockLoadReg user s (a, g a)).psr = s.psr := by
      unfold State.blockLoadReg; split <;> (try split) <;> simp
    have h := ih (State.blockLoadReg user s (a, g a)) hl.2
    rw [hmode] at h
    have e : s.blockLoadRegs user ((a :: l).map fun r => (r, g r)) =
        (State.blockLoadReg user s (a, g a)).blockLoadRegs user (l.map fun r => (r, g r)) := rfl
    rw [e]
    constructor
    · intro r hr hp
      rcases List.mem_cons.1 hr with rfl | hr
      · rw [h.2 ?_, State.blockLoadReg_read, if_pos hp]
        intro q hq hqp
        have := (Mode.preg_injective _ q r).1 (hqp.trans hp.symm)
        exact hl.1 (this ▸ hq)
      · exact h.1 r hr hp
    · intro hn
      rw [h.2 fun r hr => hn r (List.mem_cons_of_mem _ hr), State.blockLoadReg_read,
        if_neg (hn a List.mem_cons_self)]

/-! ## The stores -/

theorem State.byte_put (s : State) (z : Size) (a v : Word) (b : Nat) (hm : Memory.wf s.mem = true)
    (h : b < a.toNat ∨ a.toNat + z.count ≤ b) : (s.put z a v).byte b = s.byte b := by
  unfold State.byte State.put
  refine Memory.read_writeBytes_other _ _ _ _ hm ?_
  cases z <;> simpa [Size.count] using h

theorem State.wordAt_eq (s : State) (a : Word) : s.wordAt a = s.value .word a := rfl

theorem State.wordAt_put (s : State) (a v : Word) (hm : Memory.wf s.mem = true) : (s.put .word a v).wordAt a = v :=
  Memory.readWord_writeBytes _ _ _ hm

theorem State.wordAt_congr {s t : State} (a : Word) (h : ∀ b, a.toNat ≤ b → b < a.toNat + 4 → t.byte b = s.byte b) :
    t.wordAt a = s.wordAt a := by
  unfold State.wordAt
  rw [h _ (by omega) (by omega), h _ (by omega) (by omega), h _ (by omega) (by omega), h _ (by omega) (by omega)]

theorem State.wf_put (s : State) (z : Size) (a v : Word) (hm : Memory.wf s.mem = true) :
    Memory.wf (s.put z a v).mem = true := Memory.wf_writeBytes _ _ _ hm

/-- Words stored one after another at aligned addresses, no two the same: each word reads back, and no other byte
changes. -/
theorem putAll_read {α : Type} (l : List α) (f g : α → Word) (s : State) (hm : Memory.wf s.mem = true)
    (ha : ∀ x ∈ l, Word.aligned (f x) = true) (hd : l.Pairwise fun x y => f x ≠ f y) :
    (∀ x ∈ l, (l.foldl (fun t x => t.put .word (f x) (g x)) s).wordAt (f x) = g x) ∧
    (∀ b, (∀ x ∈ l, b < (f x).toNat ∨ (f x).toNat + 4 ≤ b) →
      (l.foldl (fun t x => t.put .word (f x) (g x)) s).byte b = s.byte b) := by
  induction l generalizing s with
  | nil => simp
  | cons a l ih =>
    rw [List.pairwise_cons] at hd
    have h := ih (s.put .word (f a) (g a)) (State.wf_put _ _ _ _ hm)
      (fun x hx => ha x (List.mem_cons_of_mem _ hx)) hd.2
    simp only [List.foldl_cons]
    refine ⟨fun x hx => ?_, fun b hb => ?_⟩
    · rcases List.mem_cons.1 hx with rfl | hx
      · refine Eq.trans (State.wordAt_congr _ fun b h1 h2 => h.2 b fun y hy => ?_) (State.wordAt_put s (f x) (g x) hm)
        have a1 := (Word.aligned_iff _).1 (ha x List.mem_cons_self)
        have a2 := (Word.aligned_iff _).1 (ha y (List.mem_cons_of_mem _ hy))
        have hne : (f x).toNat ≠ (f y).toNat := fun e => hd.1 y hy (BitVec.eq_of_toNat_eq e)
        omega
      · exact h.1 x hx
    · rw [h.2 b fun x hx => hb x (List.mem_cons_of_mem _ hx)]
      exact State.byte_put s .word _ _ _ hm (hb a List.mem_cons_self)

/-! ## The first access that is stopped -/

/-- Loads end at the first access that is stopped. -/
theorem State.loadAll_stops {s : State} (pre post : List Word) (a : Word) (e : Stop)
    (hp : ∀ x ∈ pre, s.access .word .read s.privileged x = none)
    (ha : s.access .word .read s.privileged a = some e) : s.loadAll (pre ++ a :: post) = .error e := by
  induction pre with
  | nil =>
    have : s.load .word false a = .error e := by unfold State.load; simp [ha]
    simp [State.loadAll, this]
  | cons x pre ih =>
    have hx : s.load .word false x = .ok (s.value .word x) :=
      State.load_of_access (by simpa using hp x List.mem_cons_self)
    simp [State.loadAll, hx, ih fun y hy => hp y (List.mem_cons_of_mem _ hy)]

/-- Stores of words, unhindered, change memory and the list of stored words alone. -/
theorem putAll_onlyMemory {α : Type} (l : List α) (f g : α → Word) (s : State) :
    onlyMemory s (l.foldl (fun t x => t.put .word (f x) (g x)) s) := by
  induction l generalizing s with
  | nil => exact onlyMemory_refl s
  | cons a l ih => exact onlyMemory_trans (onlyMemory_put s _ _ _) (ih _)

/-- Stores end at the first access that is stopped, with the words before it stored. -/
theorem State.storeAll_stops {s : State} (pre post : List (Word × Word)) (x : Word × Word) (e : Stop)
    (hp : ∀ y ∈ pre, s.access .word .write s.privileged y.1 = none)
    (hx : s.access .word .write s.privileged x.1 = some e) :
    s.storeAll (pre ++ x :: post) = (pre.foldl (fun t y => t.put .word y.1 y.2) s, some e) := by
  induction pre generalizing s with
  | nil =>
    have : s.store .word false x.1 x.2 = .error e := by unfold State.store; simp [hx]
    simp [State.storeAll, this]
  | cons y pre ih =>
    have hy : s.store .word false y.1 y.2 = .ok (s.put .word y.1 y.2) :=
      State.store_of_access (by simpa using hp y List.mem_cons_self)
    have h := ih (s := s.put .word y.1 y.2)
      (fun z hz => (State.access_congr rfl _ _ _ _).trans (hp z (List.mem_cons_of_mem _ hz)))
      ((State.access_congr rfl _ _ _ _).trans hx)
    simp [State.storeAll, hy, h]

end Sys2Proof.Machine
end

