-- ==== Sys2Proof/Laws/Encoding.lean ====
section
/-!
SUPPORT. The encoder's words field by field: what the decoder finds in each layout of 30_encoding.
-/

namespace Sys2Proof

theorem toNat_cat {m n : Nat} (x : BitVec m) (y : BitVec n) : (x ++ y).toNat = x.toNat * 2 ^ n + y.toNat := by
  rw [BitVec.toNat_append, Nat.shiftLeft_eq, Nat.mul_comm, ← Nat.two_pow_add_eq_or_of_lt y.isLt]

/-- A field of a word, by its place in the number. -/
theorem field_of_toNat {w : Word} {lo len : Nat} {x : BitVec len} (h : w.toNat / 2 ^ lo % 2 ^ len = x.toNat) :
    field w lo len = x := by
  apply BitVec.eq_of_toNat_eq
  simp [field, Nat.shiftRight_eq_div_pow, h]

/-- A bit of a word, by its place in the number. -/
theorem flag_of_toNat {w : Word} {i : Nat} {b : Bool} (h : w.toNat / 2 ^ i % 2 = b.toNat) : flag w i = b := by
  rw [flag, BitVec.getLsbD, Nat.testBit_eq_decide_div_mod_eq, h]
  cases b <;> rfl

/-- A field of a word as a number. -/
theorem toNat_field (w : Word) (lo len : Nat) : (field w lo len).toNat = w.toNat / 2 ^ lo % 2 ^ len := by
  simp [field, Nat.shiftRight_eq_div_pow]

/-- A bit of a vector as a number. -/
theorem toNat_bit {n : Nat} (x : BitVec n) (i : Nat) : (x.getLsbD i).toNat = x.toNat / 2 ^ i % 2 := by
  rw [BitVec.getLsbD, Nat.testBit_eq_decide_div_mod_eq]
  have := Nat.mod_two_eq_zero_or_one (x.toNat / 2 ^ i)
  rcases this with h | h <;> simp [h]

/-- A bit of a word as a number. -/
theorem toNat_flag (w : Word) (i : Nat) : (flag w i).toNat = w.toNat / 2 ^ i % 2 := toNat_bit w i

@[simp] theorem Cond.ofBits_bits (c : Cond) : Cond.ofBits c.bits = c := by cases c <;> rfl

@[simp] theorem Cond.bits_ofBits (b : BitVec 4) : (Cond.ofBits b).bits = b := by revert b; decide

@[simp] theorem ShiftType.ofBits_bits (t : ShiftType) : ShiftType.ofBits t.bits = t := by cases t <;> rfl

@[simp] theorem ShiftType.bits_ofBits (b : BitVec 2) : (ShiftType.ofBits b).bits = b := by revert b; decide

@[simp] theorem PsrField.ofBits_bits (a : PsrField) : PsrField.ofBits a.bits = some a := by cases a <;> rfl

theorem layoutDpImm_toNat (op : BitVec 4) (c : Cond) (sb : Bool) (rn rd : Reg) (rot : BitVec 4) (imm : BitVec 8) :
    (layoutDpImm op c sb rn rd rot imm).toNat = (((((((c.bits.toNat) * 8 + 1) * 16 + op.toNat) * 2 + sb.toNat) * 16 + rn.toNat) * 16 + rd.toNat) * 16 + rot.toNat) * 256 + imm.toNat := by
  unfold layoutDpImm
  repeat erw [toNat_cat]
  simp

/-- The fields of the layout. -/
theorem layoutDpImm_fields (op : BitVec 4) (c : Cond) (sb : Bool) (rn rd : Reg) (rot : BitVec 4) (imm : BitVec 8) :
    field (layoutDpImm op c sb rn rd rot imm) 28 4 = c.bits ∧
    field (layoutDpImm op c sb rn rd rot imm) 25 3 = 1#3 ∧
    field (layoutDpImm op c sb rn rd rot imm) 21 4 = op ∧
    flag (layoutDpImm op c sb rn rd rot imm) 20 = sb ∧
    field (layoutDpImm op c sb rn rd rot imm) 16 4 = rn ∧
    field (layoutDpImm op c sb rn rd rot imm) 12 4 = rd ∧
    field (layoutDpImm op c sb rn rd rot imm) 8 4 = rot ∧
    field (layoutDpImm op c sb rn rd rot imm) 0 8 = imm ∧
    field (layoutDpImm op c sb rn rd rot imm) 23 2 = op.extractLsb' 2 2 := by
  have h := layoutDpImm_toNat op c sb rn rd rot imm
  have := c.bits.isLt
  have := op.isLt
  have := sb.toNat_lt
  have := rn.isLt
  have := rd.isLt
  have := rot.isLt
  have := imm.isLt
  exact ⟨field_of_toNat (by rw [h]; omega),
    field_of_toNat (by rw [h]; show _ = 1; omega),
    field_of_toNat (by rw [h]; omega),
    flag_of_toNat (by rw [h]; omega),
    field_of_toNat (by rw [h]; omega),
    field_of_toNat (by rw [h]; omega),
    field_of_toNat (by rw [h]; omega),
    field_of_toNat (by rw [h]; omega),
    field_of_toNat (by rw [h, BitVec.extractLsb'_toNat, Nat.shiftRight_eq_div_pow]; omega)⟩

theorem layoutDpReg_toNat (op : BitVec 4) (c : Cond) (sb : Bool) (rn rd : Reg) (amt : BitVec 5) (sh : ShiftType) (rm : Reg) :
    (layoutDpReg op c sb rn rd amt sh rm).toNat = (((((((((c.bits.toNat) * 8 + 0) * 16 + op.toNat) * 2 + sb.toNat) * 16 + rn.toNat) * 16 + rd.toNat) * 32 + amt.toNat) * 4 + sh.bits.toNat) * 2 + 0) * 16 + rm.toNat := by
  unfold layoutDpReg
  repeat erw [toNat_cat]
  simp

/-- The fields of the layout. -/
theorem layoutDpReg_fields (op : BitVec 4) (c : Cond) (sb : Bool) (rn rd : Reg) (amt : BitVec 5) (sh : ShiftType) (rm : Reg) :
    field (layoutDpReg op c sb rn rd amt sh rm) 28 4 = c.bits ∧
    field (layoutDpReg op c sb rn rd amt sh rm) 25 3 = 0#3 ∧
    field (layoutDpReg op c sb rn rd amt sh rm) 21 4 = op ∧
    flag (layoutDpReg op c sb rn rd amt sh rm) 20 = sb ∧
    field (layoutDpReg op c sb rn rd amt sh rm) 16 4 = rn ∧
    field (layoutDpReg op c sb rn rd amt sh rm) 12 4 = rd ∧
    field (layoutDpReg op c sb rn rd amt sh rm) 7 5 = amt ∧
    field (layoutDpReg op c sb rn rd amt sh rm) 5 2 = sh.bits ∧
    flag (layoutDpReg op c sb rn rd amt sh rm) 4 = false ∧
    field (layoutDpReg op c sb rn rd amt sh rm) 0 4 = rm ∧
    field (layoutDpReg op c sb rn rd amt sh rm) 23 2 = op.extractLsb' 2 2 := by
  have h := layoutDpReg_toNat op c sb rn rd amt sh rm
  have := c.bits.isLt
  have := op.isLt
  have := sb.toNat_lt
  have := rn.isLt
  have := rd.isLt
  have := amt.isLt
  have := sh.bits.isLt
  have := rm.isLt
  exact ⟨field_of_toNat (by rw [h]; omega),
    field_of_toNat (by rw [h]; show _ = 0; omega),
    field_of_toNat (by rw [h]; omega),
    flag_of_toNat (by rw [h]; omega),
    field_of_toNat (by rw [h]; omega),
    field_of_toNat (by rw [h]; omega),
    field_of_toNat (by rw [h]; omega),
    field_of_toNat (by rw [h]; omega),
    flag_of_toNat (by rw [h]; show _ = 0; omega),
    field_of_toNat (by rw [h]; omega),
    field_of_toNat (by rw [h, BitVec.extractLsb'_toNat, Nat.shiftRight_eq_div_pow]; omega)⟩

theorem layoutDpRegShift_toNat (op : BitVec 4) (c : Cond) (sb : Bool) (rn rd rs : Reg) (sh : ShiftType) (rm : Reg) :
    (layoutDpRegShift op c sb rn rd rs sh rm).toNat = ((((((((((c.bits.toNat) * 8 + 0) * 16 + op.toNat) * 2 + sb.toNat) * 16 + rn.toNat) * 16 + rd.toNat) * 16 + rs.toNat) * 2 + 0) * 4 + sh.bits.toNat) * 2 + 1) * 16 + rm.toNat := by
  unfold layoutDpRegShift
  repeat erw [toNat_cat]
  simp

/-- The fields of the layout. -/
theorem layoutDpRegShift_fields (op : BitVec 4) (c : Cond) (sb : Bool) (rn rd rs : Reg) (sh : ShiftType) (rm : Reg) :
    field (layoutDpRegShift op c sb rn rd rs sh rm) 28 4 = c.bits ∧
    field (layoutDpRegShift op c sb rn rd rs sh rm) 25 3 = 0#3 ∧
    field (layoutDpRegShift op c sb rn rd rs sh rm) 21 4 = op ∧
    flag (layoutDpRegShift op c sb rn rd rs sh rm) 20 = sb ∧
    field (layoutDpRegShift op c sb rn rd rs sh rm) 16 4 = rn ∧
    field (layoutDpRegShift op c sb rn rd rs sh rm) 12 4 = rd ∧
    field (layoutDpRegShift op c sb rn rd rs sh rm) 8 4 = rs ∧
    flag (layoutDpRegShift op c sb rn rd rs sh rm) 7 = false ∧
    field (layoutDpRegShift op c sb rn rd rs sh rm) 5 2 = sh.bits ∧
    flag (layoutDpRegShift op c sb rn rd rs sh rm) 4 = true ∧
    field (layoutDpRegShift op c sb rn rd rs sh rm) 0 4 = rm ∧
    field (layoutDpRegShift op c sb rn rd rs sh rm) 23 2 = op.extractLsb' 2 2 := by
  have h := layoutDpRegShift_toNat op c sb rn rd rs sh rm
  have := c.bits.isLt
  have := op.isLt
  have := sb.toNat_lt
  have := rn.isLt
  have := rd.isLt
  have := rs.isLt
  have := sh.bits.isLt
  have := rm.isLt
  exact ⟨field_of_toNat (by rw [h]; omega),
    field_of_toNat (by rw [h]; show _ = 0; omega),
    field_of_toNat (by rw [h]; omega),
    flag_of_toNat (by rw [h]; omega),
    field_of_toNat (by rw [h]; omega),
    field_of_toNat (by rw [h]; omega),
    field_of_toNat (by rw [h]; omega),
    flag_of_toNat (by rw [h]; show _ = 0; omega),
    field_of_toNat (by rw [h]; omega),
    flag_of_toNat (by rw [h]; show _ = 1; omega),
    field_of_toNat (by rw [h]; omega),
    field_of_toNat (by rw [h, BitVec.extractLsb'_toNat, Nat.shiftRight_eq_div_pow]; omega)⟩

theorem layoutMul_toNat (op : BitVec 7) (c : Cond) (sb : Bool) (r19 r15 r11 r3 : Reg) :
    (layoutMul op c sb r19 r15 r11 r3).toNat = (((((((c.bits.toNat) * 128 + op.toNat) * 2 + sb.toNat) * 16 + r19.toNat) * 16 + r15.toNat) * 16 + r11.toNat) * 16 + 9) * 16 + r3.toNat := by
  unfold layoutMul
  repeat erw [toNat_cat]
  simp

/-- The fields of the layout. -/
theorem layoutMul_fields (op : BitVec 7) (c : Cond) (sb : Bool) (r19 r15 r11 r3 : Reg) :
    field (layoutMul op c sb r19 r15 r11 r3) 28 4 = c.bits ∧
    field (layoutMul op c sb r19 r15 r11 r3) 21 7 = op ∧
    flag (layoutMul op c sb r19 r15 r11 r3) 20 = sb ∧
    field (layoutMul op c sb r19 r15 r11 r3) 16 4 = r19 ∧
    field (layoutMul op c sb r19 r15 r11 r3) 12 4 = r15 ∧
    field (layoutMul op c sb r19 r15 r11 r3) 8 4 = r11 ∧
    field (layoutMul op c sb r19 r15 r11 r3) 4 4 = 9#4 ∧
    field (layoutMul op c sb r19 r15 r11 r3) 0 4 = r3 ∧
    field (layoutMul op c sb r19 r15 r11 r3) 25 3 = op.extractLsb' 4 3 ∧
    field (layoutMul op c sb r19 r15 r11 r3) 22 6 = op.extractLsb' 1 6 ∧
    field (layoutMul op c sb r19 r15 r11 r3) 23 5 = op.extractLsb' 2 5 ∧
    field (layoutMul op c sb r19 r15 r11 r3) 21 2 = op.extractLsb' 0 2 ∧
    flag (layoutMul op c sb r19 r15 r11 r3) 21 = op.getLsbD 0 ∧
    flag (layoutMul op c sb r19 r15 r11 r3) 7 = true ∧
    flag (layoutMul op c sb r19 r15 r11 r3) 4 = true := by
  have h := layoutMul_toNat op c sb r19 r15 r11 r3
  have := c.bits.isLt
  have := op.isLt
  have := sb.toNat_lt
  have := r19.isLt
  have := r15.isLt
  have := r11.isLt
  have := r3.isLt
  exact ⟨field_of_toNat (by rw [h]; omega),
    field_of_toNat (by rw [h]; omega),
    flag_of_toNat (by rw [h]; omega),
    field_of_toNat (by rw [h]; omega),
    field_of_toNat (by rw [h]; omega),
    field_of_toNat (by rw [h]; omega),
    field_of_toNat (by rw [h]; show _ = 9; omega),
    field_of_toNat (by rw [h]; omega),
    field_of_toNat (by rw [h, BitVec.extractLsb'_toNat, Nat.shiftRight_eq_div_pow]; omega),
    field_of_toNat (by rw [h, BitVec.extractLsb'_toNat, Nat.shiftRight_eq_div_pow]; omega),
    field_of_toNat (by rw [h, BitVec.extractLsb'_toNat, Nat.shiftRight_eq_div_pow]; omega),
    field_of_toNat (by rw [h, BitVec.extractLsb'_toNat, Nat.shiftRight_eq_div_pow]; omega),
    flag_of_toNat (by rw [h, toNat_bit]; omega),
    flag_of_toNat (by rw [h]; show _ = 1; omega),
    flag_of_toNat (by rw [h]; show _ = 1; omega)⟩

theorem layoutSwap_toNat (b : Bool) (c : Cond) (rn rd rm : Reg) :
    (layoutSwap b c rn rd rm).toNat = (((((((c.bits.toNat) * 32 + 2) * 2 + b.toNat) * 4 + 0) * 16 + rn.toNat) * 16 + rd.toNat) * 256 + 9) * 16 + rm.toNat := by
  unfold layoutSwap
  repeat erw [toNat_cat]
  simp

/-- The fields of the layout. -/
theorem layoutSwap_fields (b : Bool) (c : Cond) (rn rd rm : Reg) :
    field (layoutSwap b c rn rd rm) 28 4 = c.bits ∧
    field (layoutSwap b c rn rd rm) 23 5 = 2#5 ∧
    flag (layoutSwap b c rn rd rm) 22 = b ∧
    field (layoutSwap b c rn rd rm) 20 2 = 0#2 ∧
    field (layoutSwap b c rn rd rm) 16 4 = rn ∧
    field (layoutSwap b c rn rd rm) 12 4 = rd ∧
    field (layoutSwap b c rn rd rm) 4 8 = 9#8 ∧
    field (layoutSwap b c rn rd rm) 0 4 = rm ∧
    field (layoutSwap b c rn rd rm) 25 3 = 0#3 ∧
    field (layoutSwap b c rn rd rm) 4 4 = 9#4 ∧
    flag (layoutSwap b c rn rd rm) 7 = true ∧
    flag (layoutSwap b c rn rd rm) 4 = true := by
  have h := layoutSwap_toNat b c rn rd rm
  have := c.bits.isLt
  have := b.toNat_lt
  have := rn.isLt
  have := rd.isLt
  have := rm.isLt
  exact ⟨field_of_toNat (by rw [h]; omega),
    field_of_toNat (by rw [h]; show _ = 2; omega),
    flag_of_toNat (by rw [h]; omega),
    field_of_toNat (by rw [h]; show _ = 0; omega),
    field_of_toNat (by rw [h]; omega),
    field_of_toNat (by rw [h]; omega),
    field_of_toNat (by rw [h]; show _ = 9; omega),
    field_of_toNat (by rw [h]; omega),
    field_of_toNat (by rw [h]; show _ = 0; omega),
    field_of_toNat (by rw [h]; show _ = 9; omega),
    flag_of_toNat (by rw [h]; show _ = 1; omega),
    flag_of_toNat (by rw [h]; show _ = 1; omega)⟩

theorem layoutTransferImm_toNat (b l : Bool) (c : Cond) (p u w : Bool) (rn rd : Reg) (off : BitVec 12) :
    (layoutTransferImm b l c p u w rn rd off).toNat = (((((((((c.bits.toNat) * 8 + 2) * 2 + p.toNat) * 2 + u.toNat) * 2 + b.toNat) * 2 + w.toNat) * 2 + l.toNat) * 16 + rn.toNat) * 16 + rd.toNat) * 4096 + off.toNat := by
  unfold layoutTransferImm
  repeat erw [toNat_cat]
  simp

/-- The fields of the layout. -/
theorem layoutTransferImm_fields (b l : Bool) (c : Cond) (p u w : Bool) (rn rd : Reg) (off : BitVec 12) :
    field (layoutTransferImm b l c p u w rn rd off) 28 4 = c.bits ∧
    field (layoutTransferImm b l c p u w rn rd off) 25 3 = 2#3 ∧
    flag (layoutTransferImm b l c p u w rn rd off) 24 = p ∧
    flag (layoutTransferImm b l c p u w rn rd off) 23 = u ∧
    flag (layoutTransferImm b l c p u w rn rd off) 22 = b ∧
    flag (layoutTransferImm b l c p u w rn rd off) 21 = w ∧
    flag (layoutTransferImm b l c p u w rn rd off) 20 = l ∧
    field (layoutTransferImm b l c p u w rn rd off) 16 4 = rn ∧
    field (layoutTransferImm b l c p u w rn rd off) 12 4 = rd ∧
    field (layoutTransferImm b l c p u w rn rd off) 0 12 = off := by
  have h := layoutTransferImm_toNat b l c p u w rn rd off
  have := c.bits.isLt
  have := p.toNat_lt
  have := u.toNat_lt
  have := b.toNat_lt
  have := w.toNat_lt
  have := l.toNat_lt
  have := rn.isLt
  have := rd.isLt
  have := off.isLt
  exact ⟨field_of_toNat (by rw [h]; omega),
    field_of_toNat (by rw [h]; show _ = 2; omega),
    flag_of_toNat (by rw [h]; omega),
    flag_of_toNat (by rw [h]; omega),
    flag_of_toNat (by rw [h]; omega),
    flag_of_toNat (by rw [h]; omega),
    flag_of_toNat (by rw [h]; omega),
    field_of_toNat (by rw [h]; omega),
    field_of_toNat (by rw [h]; omega),
    field_of_toNat (by rw [h]; omega)⟩

theorem layoutTransferReg_toNat (b l : Bool) (c : Cond) (p u w : Bool) (rn rd : Reg) (amt : BitVec 5) (sh : ShiftType) (rm : Reg) :
    (layoutTransferReg b l c p u w rn rd amt sh rm).toNat = ((((((((((((c.bits.toNat) * 8 + 3) * 2 + p.toNat) * 2 + u.toNat) * 2 + b.toNat) * 2 + w.toNat) * 2 + l.toNat) * 16 + rn.toNat) * 16 + rd.toNat) * 32 + amt.toNat) * 4 + sh.bits.toNat) * 2 + 0) * 16 + rm.toNat := by
  unfold layoutTransferReg
  repeat erw [toNat_cat]
  simp

/-- The fields of the layout. -/
theorem layoutTransferReg_fields (b l : Bool) (c : Cond) (p u w : Bool) (rn rd : Reg) (amt : BitVec 5) (sh : ShiftType) (rm : Reg) :
    field (layoutTransferReg b l c p u w rn rd amt sh rm) 28 4 = c.bits ∧
    field (layoutTransferReg b l c p u w rn rd amt sh rm) 25 3 = 3#3 ∧
    flag (layoutTransferReg b l c p u w rn rd amt sh rm) 24 = p ∧
    flag (layoutTransferReg b l c p u w rn rd amt sh rm) 23 = u ∧
    flag (layoutTransferReg b l c p u w rn rd amt sh rm) 22 = b ∧
    flag (layoutTransferReg b l c p u w rn rd amt sh rm) 21 = w ∧
    flag (layoutTransferReg b l c p u w rn rd amt sh rm) 20 = l ∧
    field (layoutTransferReg b l c p u w rn rd amt sh rm) 16 4 = rn ∧
    field (layoutTransferReg b l c p u w rn rd amt sh rm) 12 4 = rd ∧
    field (layoutTransferReg b l c p u w rn rd amt sh rm) 7 5 = amt ∧
    field (layoutTransferReg b l c p u w rn rd amt sh rm) 5 2 = sh.bits ∧
    flag (layoutTransferReg b l c p u w rn rd amt sh rm) 4 = false ∧
    field (layoutTransferReg b l c p u w rn rd amt sh rm) 0 4 = rm := by
  have h := layoutTransferReg_toNat b l c p u w rn rd amt sh rm
  have := c.bits.isLt
  have := p.toNat_lt
  have := u.toNat_lt
  have := b.toNat_lt
  have := w.toNat_lt
  have := l.toNat_lt
  have := rn.isLt
  have := rd.isLt
  have := amt.isLt
  have := sh.bits.isLt
  have := rm.isLt
  exact ⟨field_of_toNat (by rw [h]; omega),
    field_of_toNat (by rw [h]; show _ = 3; omega),
    flag_of_toNat (by rw [h]; omega),
    flag_of_toNat (by rw [h]; omega),
    flag_of_toNat (by rw [h]; omega),
    flag_of_toNat (by rw [h]; omega),
    flag_of_toNat (by rw [h]; omega),
    field_of_toNat (by rw [h]; omega),
    field_of_toNat (by rw [h]; omega),
    field_of_toNat (by rw [h]; omega),
    field_of_toNat (by rw [h]; omega),
    flag_of_toNat (by rw [h]; show _ = 0; omega),
    field_of_toNat (by rw [h]; omega)⟩

theorem layoutBlock_toNat (l p u : Bool) (c : Cond) (sb w : Bool) (rn : Reg) (list : BitVec 16) :
    (layoutBlock l p u c sb w rn list).toNat = ((((((((c.bits.toNat) * 8 + 4) * 2 + p.toNat) * 2 + u.toNat) * 2 + sb.toNat) * 2 + w.toNat) * 2 + l.toNat) * 16 + rn.toNat) * 65536 + list.toNat := by
  unfold layoutBlock
  repeat erw [toNat_cat]
  simp

/-- The fields of the layout. -/
theorem layoutBlock_fields (l p u : Bool) (c : Cond) (sb w : Bool) (rn : Reg) (list : BitVec 16) :
    field (layoutBlock l p u c sb w rn list) 28 4 = c.bits ∧
    field (layoutBlock l p u c sb w rn list) 25 3 = 4#3 ∧
    flag (layoutBlock l p u c sb w rn list) 24 = p ∧
    flag (layoutBlock l p u c sb w rn list) 23 = u ∧
    flag (layoutBlock l p u c sb w rn list) 22 = sb ∧
    flag (layoutBlock l p u c sb w rn list) 21 = w ∧
    flag (layoutBlock l p u c sb w rn list) 20 = l ∧
    field (layoutBlock l p u c sb w rn list) 16 4 = rn ∧
    field (layoutBlock l p u c sb w rn list) 0 16 = list := by
  have h := layoutBlock_toNat l p u c sb w rn list
  have := c.bits.isLt
  have := p.toNat_lt
  have := u.toNat_lt
  have := sb.toNat_lt
  have := w.toNat_lt
  have := l.toNat_lt
  have := rn.isLt
  have := list.isLt
  exact ⟨field_of_toNat (by rw [h]; omega),
    field_of_toNat (by rw [h]; show _ = 4; omega),
    flag_of_toNat (by rw [h]; omega),
    flag_of_toNat (by rw [h]; omega),
    flag_of_toNat (by rw [h]; omega),
    flag_of_toNat (by rw [h]; omega),
    flag_of_toNat (by rw [h]; omega),
    field_of_toNat (by rw [h]; omega),
    field_of_toNat (by rw [h]; omega)⟩

theorem layoutCpTransfer_toNat (l : Bool) (c : Cond) (p u n w : Bool) (rn : Reg) (crd cp : BitVec 4) (off : BitVec 8) :
    (layoutCpTransfer l c p u n w rn crd cp off).toNat = ((((((((((c.bits.toNat) * 8 + 6) * 2 + p.toNat) * 2 + u.toNat) * 2 + n.toNat) * 2 + w.toNat) * 2 + l.toNat) * 16 + rn.toNat) * 16 + crd.toNat) * 16 + cp.toNat) * 256 + off.toNat := by
  unfold layoutCpTransfer
  repeat erw [toNat_cat]
  simp

/-- The fields of the layout. -/
theorem layoutCpTransfer_fields (l : Bool) (c : Cond) (p u n w : Bool) (rn : Reg) (crd cp : BitVec 4) (off : BitVec 8) :
    field (layoutCpTransfer l c p u n w rn crd cp off) 28 4 = c.bits ∧
    field (layoutCpTransfer l c p u n w rn crd cp off) 25 3 = 6#3 ∧
    flag (layoutCpTransfer l c p u n w rn crd cp off) 24 = p ∧
    flag (layoutCpTransfer l c p u n w rn crd cp off) 23 = u ∧
    flag (layoutCpTransfer l c p u n w rn crd cp off) 22 = n ∧
    flag (layoutCpTransfer l c p u n w rn crd cp off) 21 = w ∧
    flag (layoutCpTransfer l c p u n w rn crd cp off) 20 = l ∧
    field (layoutCpTransfer l c p u n w rn crd cp off) 16 4 = rn ∧
    field (layoutCpTransfer l c p u n w rn crd cp off) 12 4 = crd ∧
    field (layoutCpTransfer l c p u n w rn crd cp off) 8 4 = cp ∧
    field (layoutCpTransfer l c p u n w rn crd cp off) 0 8 = off := by
  have h := layoutCpTransfer_toNat l c p u n w rn crd cp off
  have := c.bits.isLt
  have := p.toNat_lt
  have := u.toNat_lt
  have := n.toNat_lt
  have := w.toNat_lt
  have := l.toNat_lt
  have := rn.isLt
  have := crd.isLt
  have := cp.isLt
  have := off.isLt
  exact ⟨field_of_toNat (by rw [h]; omega),
    field_of_toNat (by rw [h]; show _ = 6; omega),
    flag_of_toNat (by rw [h]; omega),
    flag_of_toNat (by rw [h]; omega),
    flag_of_toNat (by rw [h]; omega),
    flag_of_toNat (by rw [h]; omega),
    flag_of_toNat (by rw [h]; omega),
    field_of_toNat (by rw [h]; omega),
    field_of_toNat (by rw [h]; omega),
    field_of_toNat (by rw [h]; omega),
    field_of_toNat (by rw [h]; omega)⟩

theorem layoutCpReg_toNat (l : Bool) (c : Cond) (op : BitVec 3) (crn : BitVec 4) (rd : Reg) (cp : BitVec 4) (q : BitVec 3) (crm : BitVec 4) :
    (layoutCpReg l c op crn rd cp q crm).toNat = (((((((((c.bits.toNat) * 16 + 14) * 8 + op.toNat) * 2 + l.toNat) * 16 + crn.toNat) * 16 + rd.toNat) * 16 + cp.toNat) * 8 + q.toNat) * 2 + 1) * 16 + crm.toNat := by
  unfold layoutCpReg
  repeat erw [toNat_cat]
  simp

/-- The fields of the layout. -/
theorem layoutCpReg_fields (l : Bool) (c : Cond) (op : BitVec 3) (crn : BitVec 4) (rd : Reg) (cp : BitVec 4) (q : BitVec 3) (crm : BitVec 4) :
    field (layoutCpReg l c op crn rd cp q crm) 28 4 = c.bits ∧
    field (layoutCpReg l c op crn rd cp q crm) 24 4 = 14#4 ∧
    field (layoutCpReg l c op crn rd cp q crm) 21 3 = op ∧
    flag (layoutCpReg l c op crn rd cp q crm) 20 = l ∧
    field (layoutCpReg l c op crn rd cp q crm) 16 4 = crn ∧
    field (layoutCpReg l c op crn rd cp q crm) 12 4 = rd ∧
    field (layoutCpReg l c op crn rd cp q crm) 8 4 = cp ∧
    field (layoutCpReg l c op crn rd cp q crm) 5 3 = q ∧
    flag (layoutCpReg l c op crn rd cp q crm) 4 = true ∧
    field (layoutCpReg l c op crn rd cp q crm) 0 4 = crm ∧
    field (layoutCpReg l c op crn rd cp q crm) 25 3 = 7#3 ∧
    flag (layoutCpReg l c op crn rd cp q crm) 24 = false := by
  have h := layoutCpReg_toNat l c op crn rd cp q crm
  have := c.bits.isLt
  have := op.isLt
  have := l.toNat_lt
  have := crn.isLt
  have := rd.isLt
  have := cp.isLt
  have := q.isLt
  have := crm.isLt
  exact ⟨field_of_toNat (by rw [h]; omega),
    field_of_toNat (by rw [h]; show _ = 14; omega),
    field_of_toNat (by rw [h]; omega),
    flag_of_toNat (by rw [h]; omega),
    field_of_toNat (by rw [h]; omega),
    field_of_toNat (by rw [h]; omega),
    field_of_toNat (by rw [h]; omega),
    field_of_toNat (by rw [h]; omega),
    flag_of_toNat (by rw [h]; show _ = 1; omega),
    field_of_toNat (by rw [h]; omega),
    field_of_toNat (by rw [h]; show _ = 7; omega),
    flag_of_toNat (by rw [h]; show _ = 0; omega)⟩

theorem encode_undefinedArm2_toNat (c : Cond) (hi : BitVec 16) (mid : BitVec 2) (lo : BitVec 4) :
    (encode (.undefinedArm2 c hi mid lo)).toNat = ((((((c.bits.toNat) * 16 + 1) * 65536 + hi.toNat) * 2 + 1) * 4 + mid.toNat) * 2 + 1) * 16 + lo.toNat := by
  unfold encode
  repeat erw [toNat_cat]
  simp

/-- The fields of the layout. -/
theorem encode_undefinedArm2_fields (c : Cond) (hi : BitVec 16) (mid : BitVec 2) (lo : BitVec 4) :
    field (encode (.undefinedArm2 c hi mid lo)) 28 4 = c.bits ∧
    field (encode (.undefinedArm2 c hi mid lo)) 24 4 = 1#4 ∧
    field (encode (.undefinedArm2 c hi mid lo)) 8 16 = hi ∧
    flag (encode (.undefinedArm2 c hi mid lo)) 7 = true ∧
    field (encode (.undefinedArm2 c hi mid lo)) 5 2 = mid ∧
    flag (encode (.undefinedArm2 c hi mid lo)) 4 = true ∧
    field (encode (.undefinedArm2 c hi mid lo)) 0 4 = lo ∧
    field (encode (.undefinedArm2 c hi mid lo)) 25 3 = 0#3 ∧
    field (encode (.undefinedArm2 c hi mid lo)) 22 6 = 1#4 ++ hi.extractLsb' 14 2 ∧
    field (encode (.undefinedArm2 c hi mid lo)) 23 5 = 1#4 ++ hi.extractLsb' 15 1 := by
  have h := encode_undefinedArm2_toNat c hi mid lo
  have := c.bits.isLt
  have := hi.isLt
  have := mid.isLt
  have := lo.isLt
  exact ⟨field_of_toNat (by rw [h]; omega),
    field_of_toNat (by rw [h]; show _ = 1; omega),
    field_of_toNat (by rw [h]; omega),
    flag_of_toNat (by rw [h]; show _ = 1; omega),
    field_of_toNat (by rw [h]; omega),
    flag_of_toNat (by rw [h]; show _ = 1; omega),
    field_of_toNat (by rw [h]; omega),
    field_of_toNat (by rw [h]; show _ = 0; omega),
    field_of_toNat (by rw [h, toNat_cat, BitVec.extractLsb'_toNat, Nat.shiftRight_eq_div_pow]; show _ = 1 * _ + _; omega),
    field_of_toNat (by rw [h, toNat_cat, BitVec.extractLsb'_toNat, Nat.shiftRight_eq_div_pow]; show _ = 1 * _ + _; omega)⟩

theorem encode_mrs_toNat (c : Cond) (spsr : Bool) (rd : Reg) :
    (encode (.mrs c spsr rd)).toNat = (((((c.bits.toNat) * 32 + 2) * 2 + spsr.toNat) * 64 + 15) * 16 + rd.toNat) * 4096 + 0 := by
  unfold encode
  repeat erw [toNat_cat]
  simp

/-- The fields of the layout. -/
theorem encode_mrs_fields (c : Cond) (spsr : Bool) (rd : Reg) :
    field (encode (.mrs c spsr rd)) 28 4 = c.bits ∧
    field (encode (.mrs c spsr rd)) 23 5 = 2#5 ∧
    flag (encode (.mrs c spsr rd)) 22 = spsr ∧
    field (encode (.mrs c spsr rd)) 16 6 = 15#6 ∧
    field (encode (.mrs c spsr rd)) 12 4 = rd ∧
    field (encode (.mrs c spsr rd)) 0 12 = 0#12 ∧
    field (encode (.mrs c spsr rd)) 25 3 = 0#3 ∧
    field (encode (.mrs c spsr rd)) 23 2 = 2#2 ∧
    flag (encode (.mrs c spsr rd)) 20 = false ∧
    flag (encode (.mrs c spsr rd)) 25 = false ∧
    field (encode (.mrs c spsr rd)) 21 1 = 0#1 ∧
    field (encode (.mrs c spsr rd)) 16 4 = 15#4 ∧
    flag (encode (.mrs c spsr rd)) 4 = false ∧
    flag (encode (.mrs c spsr rd)) 7 = false := by
  have h := encode_mrs_toNat c spsr rd
  have := c.bits.isLt
  have := spsr.toNat_lt
  have := rd.isLt
  exact ⟨field_of_toNat (by rw [h]; omega),
    field_of_toNat (by rw [h]; show _ = 2; omega),
    flag_of_toNat (by rw [h]; omega),
    field_of_toNat (by rw [h]; show _ = 15; omega),
    field_of_toNat (by rw [h]; omega),
    field_of_toNat (by rw [h]; show _ = 0; omega),
    field_of_toNat (by rw [h]; show _ = 0; omega),
    field_of_toNat (by rw [h]; show _ = 2; omega),
    flag_of_toNat (by rw [h]; show _ = 0; omega),
    flag_of_toNat (by rw [h]; show _ = 0; omega),
    field_of_toNat (by rw [h]; show _ = 0; omega),
    field_of_toNat (by rw [h]; show _ = 15; omega),
    flag_of_toNat (by rw [h]; show _ = 0; omega),
    flag_of_toNat (by rw [h]; show _ = 0; omega)⟩

theorem encode_msrReg_toNat (c : Cond) (spsr : Bool) (a : PsrField) (rm : Reg) :
    (encode (.msrReg c spsr a rm)).toNat = ((((((c.bits.toNat) * 32 + 2) * 2 + spsr.toNat) * 4 + 2) * 16 + a.bits.toNat) * 4096 + 3840) * 16 + rm.toNat := by
  unfold encode
  repeat erw [toNat_cat]
  simp

/-- The fields of the layout. -/
theorem encode_msrReg_fields (c : Cond) (spsr : Bool) (a : PsrField) (rm : Reg) :
    field (encode (.msrReg c spsr a rm)) 28 4 = c.bits ∧
    field (encode (.msrReg c spsr a rm)) 23 5 = 2#5 ∧
    flag (encode (.msrReg c spsr a rm)) 22 = spsr ∧
    field (encode (.msrReg c spsr a rm)) 20 2 = 2#2 ∧
    field (encode (.msrReg c spsr a rm)) 16 4 = a.bits ∧
    field (encode (.msrReg c spsr a rm)) 4 12 = 3840#12 ∧
    field (encode (.msrReg c spsr a rm)) 0 4 = rm ∧
    field (encode (.msrReg c spsr a rm)) 25 3 = 0#3 ∧
    field (encode (.msrReg c spsr a rm)) 23 2 = 2#2 ∧
    flag (encode (.msrReg c spsr a rm)) 20 = false ∧
    flag (encode (.msrReg c spsr a rm)) 25 = false ∧
    field (encode (.msrReg c spsr a rm)) 21 1 = 1#1 ∧
    field (encode (.msrReg c spsr a rm)) 12 4 = 15#4 ∧
    field (encode (.msrReg c spsr a rm)) 4 8 = 0#8 ∧
    flag (encode (.msrReg c spsr a rm)) 4 = false ∧
    flag (encode (.msrReg c spsr a rm)) 7 = false := by
  have h := encode_msrReg_toNat c spsr a rm
  have := c.bits.isLt
  have := spsr.toNat_lt
  have := a.bits.isLt
  have := rm.isLt
  exact ⟨field_of_toNat (by rw [h]; omega),
    field_of_toNat (by rw [h]; show _ = 2; omega),
    flag_of_toNat (by rw [h]; omega),
    field_of_toNat (by rw [h]; show _ = 2; omega),
    field_of_toNat (by rw [h]; omega),
    field_of_toNat (by rw [h]; show _ = 3840; omega),
    field_of_toNat (by rw [h]; omega),
    field_of_toNat (by rw [h]; show _ = 0; omega),
    field_of_toNat (by rw [h]; show _ = 2; omega),
    flag_of_toNat (by rw [h]; show _ = 0; omega),
    flag_of_toNat (by rw [h]; show _ = 0; omega),
    field_of_toNat (by rw [h]; show _ = 1; omega),
    field_of_toNat (by rw [h]; show _ = 15; omega),
    field_of_toNat (by rw [h]; show _ = 0; omega),
    flag_of_toNat (by rw [h]; show _ = 0; omega),
    flag_of_toNat (by rw [h]; show _ = 0; omega)⟩

theorem encode_msrImm_toNat (c : Cond) (spsr : Bool) (a : PsrField) (rot : BitVec 4) (imm : BitVec 8) :
    (encode (.msrImm c spsr a rot imm)).toNat = (((((((c.bits.toNat) * 32 + 6) * 2 + spsr.toNat) * 4 + 2) * 16 + a.bits.toNat) * 16 + 15) * 16 + rot.toNat) * 256 + imm.toNat := by
  unfold encode
  repeat erw [toNat_cat]
  simp

/-- The fields of the layout. -/
theorem encode_msrImm_fields (c : Cond) (spsr : Bool) (a : PsrField) (rot : BitVec 4) (imm : BitVec 8) :
    field (encode (.msrImm c spsr a rot imm)) 28 4 = c.bits ∧
    field (encode (.msrImm c spsr a rot imm)) 23 5 = 6#5 ∧
    flag (encode (.msrImm c spsr a rot imm)) 22 = spsr ∧
    field (encode (.msrImm c spsr a rot imm)) 20 2 = 2#2 ∧
    field (encode (.msrImm c spsr a rot imm)) 16 4 = a.bits ∧
    field (encode (.msrImm c spsr a rot imm)) 12 4 = 15#4 ∧
    field (encode (.msrImm c spsr a rot imm)) 8 4 = rot ∧
    field (encode (.msrImm c spsr a rot imm)) 0 8 = imm ∧
    field (encode (.msrImm c spsr a rot imm)) 25 3 = 1#3 ∧
    field (encode (.msrImm c spsr a rot imm)) 23 2 = 2#2 ∧
    flag (encode (.msrImm c spsr a rot imm)) 20 = false ∧
    flag (encode (.msrImm c spsr a rot imm)) 25 = true ∧
    field (encode (.msrImm c spsr a rot imm)) 21 1 = 1#1 := by
  have h := encode_msrImm_toNat c spsr a rot imm
  have := c.bits.isLt
  have := spsr.toNat_lt
  have := a.bits.isLt
  have := rot.isLt
  have := imm.isLt
  exact ⟨field_of_toNat (by rw [h]; omega),
    field_of_toNat (by rw [h]; show _ = 6; omega),
    flag_of_toNat (by rw [h]; omega),
    field_of_toNat (by rw [h]; show _ = 2; omega),
    field_of_toNat (by rw [h]; omega),
    field_of_toNat (by rw [h]; show _ = 15; omega),
    field_of_toNat (by rw [h]; omega),
    field_of_toNat (by rw [h]; omega),
    field_of_toNat (by rw [h]; show _ = 1; omega),
    field_of_toNat (by rw [h]; show _ = 2; omega),
    flag_of_toNat (by rw [h]; show _ = 0; omega),
    flag_of_toNat (by rw [h]; show _ = 1; omega),
    field_of_toNat (by rw [h]; show _ = 1; omega)⟩

theorem encode_undefined_toNat (c : Cond) (hi : BitVec 20) (lo : BitVec 4) :
    (encode (.undefined c hi lo)).toNat = ((((c.bits.toNat) * 8 + 3) * 1048576 + hi.toNat) * 2 + 1) * 16 + lo.toNat := by
  unfold encode
  repeat erw [toNat_cat]
  simp

/-- The fields of the layout. -/
theorem encode_undefined_fields (c : Cond) (hi : BitVec 20) (lo : BitVec 4) :
    field (encode (.undefined c hi lo)) 28 4 = c.bits ∧
    field (encode (.undefined c hi lo)) 25 3 = 3#3 ∧
    field (encode (.undefined c hi lo)) 5 20 = hi ∧
    flag (encode (.undefined c hi lo)) 4 = true ∧
    field (encode (.undefined c hi lo)) 0 4 = lo := by
  have h := encode_undefined_toNat c hi lo
  have := c.bits.isLt
  have := hi.isLt
  have := lo.isLt
  exact ⟨field_of_toNat (by rw [h]; omega),
    field_of_toNat (by rw [h]; show _ = 3; omega),
    field_of_toNat (by rw [h]; omega),
    flag_of_toNat (by rw [h]; show _ = 1; omega),
    field_of_toNat (by rw [h]; omega)⟩

theorem encode_b_toNat (c : Cond) (off : BitVec 24) :
    (encode (.b c off)).toNat = ((c.bits.toNat) * 16 + 10) * 16777216 + off.toNat := by
  unfold encode
  repeat erw [toNat_cat]
  simp

/-- The fields of the layout. -/
theorem encode_b_fields (c : Cond) (off : BitVec 24) :
    field (encode (.b c off)) 28 4 = c.bits ∧
    field (encode (.b c off)) 24 4 = 10#4 ∧
    field (encode (.b c off)) 0 24 = off ∧
    field (encode (.b c off)) 25 3 = 5#3 ∧
    flag (encode (.b c off)) 24 = false := by
  have h := encode_b_toNat c off
  have := c.bits.isLt
  have := off.isLt
  exact ⟨field_of_toNat (by rw [h]; omega),
    field_of_toNat (by rw [h]; show _ = 10; omega),
    field_of_toNat (by rw [h]; omega),
    field_of_toNat (by rw [h]; show _ = 5; omega),
    flag_of_toNat (by rw [h]; show _ = 0; omega)⟩

theorem encode_bl_toNat (c : Cond) (off : BitVec 24) :
    (encode (.bl c off)).toNat = ((c.bits.toNat) * 16 + 11) * 16777216 + off.toNat := by
  unfold encode
  repeat erw [toNat_cat]
  simp

/-- The fields of the layout. -/
theorem encode_bl_fields (c : Cond) (off : BitVec 24) :
    field (encode (.bl c off)) 28 4 = c.bits ∧
    field (encode (.bl c off)) 24 4 = 11#4 ∧
    field (encode (.bl c off)) 0 24 = off ∧
    field (encode (.bl c off)) 25 3 = 5#3 ∧
    flag (encode (.bl c off)) 24 = true := by
  have h := encode_bl_toNat c off
  have := c.bits.isLt
  have := off.isLt
  exact ⟨field_of_toNat (by rw [h]; omega),
    field_of_toNat (by rw [h]; show _ = 11; omega),
    field_of_toNat (by rw [h]; omega),
    field_of_toNat (by rw [h]; show _ = 5; omega),
    flag_of_toNat (by rw [h]; show _ = 1; omega)⟩

theorem encode_cdp_toNat (c : Cond) (op crn crd cp : BitVec 4) (q : BitVec 3) (crm : BitVec 4) :
    (encode (.cdp c op crn crd cp q crm)).toNat = ((((((((c.bits.toNat) * 16 + 14) * 16 + op.toNat) * 16 + crn.toNat) * 16 + crd.toNat) * 16 + cp.toNat) * 8 + q.toNat) * 2 + 0) * 16 + crm.toNat := by
  unfold encode
  repeat erw [toNat_cat]
  simp

/-- The fields of the layout. -/
theorem encode_cdp_fields (c : Cond) (op crn crd cp : BitVec 4) (q : BitVec 3) (crm : BitVec 4) :
    field (encode (.cdp c op crn crd cp q crm)) 28 4 = c.bits ∧
    field (encode (.cdp c op crn crd cp q crm)) 24 4 = 14#4 ∧
    field (encode (.cdp c op crn crd cp q crm)) 20 4 = op ∧
    field (encode (.cdp c op crn crd cp q crm)) 16 4 = crn ∧
    field (encode (.cdp c op crn crd cp q crm)) 12 4 = crd ∧
    field (encode (.cdp c op crn crd cp q crm)) 8 4 = cp ∧
    field (encode (.cdp c op crn crd cp q crm)) 5 3 = q ∧
    flag (encode (.cdp c op crn crd cp q crm)) 4 = false ∧
    field (encode (.cdp c op crn crd cp q crm)) 0 4 = crm ∧
    field (encode (.cdp c op crn crd cp q crm)) 25 3 = 7#3 ∧
    flag (encode (.cdp c op crn crd cp q crm)) 24 = false := by
  have h := encode_cdp_toNat c op crn crd cp q crm
  have := c.bits.isLt
  have := op.isLt
  have := crn.isLt
  have := crd.isLt
  have := cp.isLt
  have := q.isLt
  have := crm.isLt
  exact ⟨field_of_toNat (by rw [h]; omega),
    field_of_toNat (by rw [h]; show _ = 14; omega),
    field_of_toNat (by rw [h]; omega),
    field_of_toNat (by rw [h]; omega),
    field_of_toNat (by rw [h]; omega),
    field_of_toNat (by rw [h]; omega),
    field_of_toNat (by rw [h]; omega),
    flag_of_toNat (by rw [h]; show _ = 0; omega),
    field_of_toNat (by rw [h]; omega),
    field_of_toNat (by rw [h]; show _ = 7; omega),
    flag_of_toNat (by rw [h]; show _ = 0; omega)⟩

theorem encode_swi_toNat (c : Cond) (comment : BitVec 24) :
    (encode (.swi c comment)).toNat = ((c.bits.toNat) * 16 + 15) * 16777216 + comment.toNat := by
  unfold encode
  repeat erw [toNat_cat]
  simp

/-- The fields of the layout. -/
theorem encode_swi_fields (c : Cond) (comment : BitVec 24) :
    field (encode (.swi c comment)) 28 4 = c.bits ∧
    field (encode (.swi c comment)) 24 4 = 15#4 ∧
    field (encode (.swi c comment)) 0 24 = comment ∧
    field (encode (.swi c comment)) 25 3 = 7#3 ∧
    flag (encode (.swi c comment)) 24 = true := by
  have h := encode_swi_toNat c comment
  have := c.bits.isLt
  have := comment.isLt
  exact ⟨field_of_toNat (by rw [h]; omega),
    field_of_toNat (by rw [h]; show _ = 15; omega),
    field_of_toNat (by rw [h]; omega),
    field_of_toNat (by rw [h]; show _ = 7; omega),
    flag_of_toNat (by rw [h]; show _ = 1; omega)⟩

end Sys2Proof
end

