-- ==== Sys2Proof/Laws/PerInstr.lean ====
section
/-!
SUPPORT. Made per instruction: the condition stands in bits 31..28 of every instruction's word (30_encoding R101).
-/

namespace Sys2Proof.Laws

/-- Bits 31..28 of the word are the condition. -/
def EncodesCond.Statement (i : Instr) : Prop := field (encode i) 28 4 = i.cond.bits

theorem EncodesCond.mul (c : Cond) (sb : Bool) (rd rn rs rm : Reg) :
    EncodesCond.Statement (.mul c sb rd rn rs rm) :=
  (layoutMul_fields _ _ _ _ _ _ _).1

theorem EncodesCond.mla (c : Cond) (sb : Bool) (rd rn rs rm : Reg) :
    EncodesCond.Statement (.mla c sb rd rn rs rm) :=
  (layoutMul_fields _ _ _ _ _ _ _).1

theorem EncodesCond.umull (c : Cond) (sb : Bool) (rh rl rs rm : Reg) :
    EncodesCond.Statement (.umull c sb rh rl rs rm) :=
  (layoutMul_fields _ _ _ _ _ _ _).1

theorem EncodesCond.umlal (c : Cond) (sb : Bool) (rh rl rs rm : Reg) :
    EncodesCond.Statement (.umlal c sb rh rl rs rm) :=
  (layoutMul_fields _ _ _ _ _ _ _).1

theorem EncodesCond.smull (c : Cond) (sb : Bool) (rh rl rs rm : Reg) :
    EncodesCond.Statement (.smull c sb rh rl rs rm) :=
  (layoutMul_fields _ _ _ _ _ _ _).1

theorem EncodesCond.smlal (c : Cond) (sb : Bool) (rh rl rs rm : Reg) :
    EncodesCond.Statement (.smlal c sb rh rl rs rm) :=
  (layoutMul_fields _ _ _ _ _ _ _).1

theorem EncodesCond.swp (c : Cond) (rn rd rm : Reg) :
    EncodesCond.Statement (.swp c rn rd rm) :=
  (layoutSwap_fields _ _ _ _ _).1

theorem EncodesCond.swpb (c : Cond) (rn rd rm : Reg) :
    EncodesCond.Statement (.swpb c rn rd rm) :=
  (layoutSwap_fields _ _ _ _ _).1

theorem EncodesCond.undefinedArm2 (c : Cond) (hi : BitVec 16) (mid : BitVec 2) (lo : BitVec 4) :
    EncodesCond.Statement (.undefinedArm2 c hi mid lo) :=
  (encode_undefinedArm2_fields c hi mid lo).1

theorem EncodesCond.mrs (c : Cond) (spsr : Bool) (rd : Reg) :
    EncodesCond.Statement (.mrs c spsr rd) :=
  (encode_mrs_fields c spsr rd).1

theorem EncodesCond.msrReg (c : Cond) (spsr : Bool) (a : PsrField) (rm : Reg) :
    EncodesCond.Statement (.msrReg c spsr a rm) :=
  (encode_msrReg_fields c spsr a rm).1

theorem EncodesCond.msrImm (c : Cond) (spsr : Bool) (a : PsrField) (rot : BitVec 4) (imm : BitVec 8) :
    EncodesCond.Statement (.msrImm c spsr a rot imm) :=
  (encode_msrImm_fields c spsr a rot imm).1

theorem EncodesCond.tstpImm (c : Cond) (rn : Reg) (rot : BitVec 4) (imm : BitVec 8) :
    EncodesCond.Statement (.tstpImm c rn rot imm) :=
  (layoutDpImm_fields _ _ _ _ _ _ _).1

theorem EncodesCond.tstpReg (c : Cond) (rn : Reg) (amt : BitVec 5) (sh : ShiftType) (rm : Reg) :
    EncodesCond.Statement (.tstpReg c rn amt sh rm) :=
  (layoutDpReg_fields _ _ _ _ _ _ _ _).1

theorem EncodesCond.tstpRegShift (c : Cond) (rn rs : Reg) (sh : ShiftType) (rm : Reg) :
    EncodesCond.Statement (.tstpRegShift c rn rs sh rm) :=
  (layoutDpRegShift_fields _ _ _ _ _ _ _ _).1

theorem EncodesCond.teqpImm (c : Cond) (rn : Reg) (rot : BitVec 4) (imm : BitVec 8) :
    EncodesCond.Statement (.teqpImm c rn rot imm) :=
  (layoutDpImm_fields _ _ _ _ _ _ _).1

theorem EncodesCond.teqpReg (c : Cond) (rn : Reg) (amt : BitVec 5) (sh : ShiftType) (rm : Reg) :
    EncodesCond.Statement (.teqpReg c rn amt sh rm) :=
  (layoutDpReg_fields _ _ _ _ _ _ _ _).1

theorem EncodesCond.teqpRegShift (c : Cond) (rn rs : Reg) (sh : ShiftType) (rm : Reg) :
    EncodesCond.Statement (.teqpRegShift c rn rs sh rm) :=
  (layoutDpRegShift_fields _ _ _ _ _ _ _ _).1

theorem EncodesCond.cmppImm (c : Cond) (rn : Reg) (rot : BitVec 4) (imm : BitVec 8) :
    EncodesCond.Statement (.cmppImm c rn rot imm) :=
  (layoutDpImm_fields _ _ _ _ _ _ _).1

theorem EncodesCond.cmppReg (c : Cond) (rn : Reg) (amt : BitVec 5) (sh : ShiftType) (rm : Reg) :
    EncodesCond.Statement (.cmppReg c rn amt sh rm) :=
  (layoutDpReg_fields _ _ _ _ _ _ _ _).1

theorem EncodesCond.cmppRegShift (c : Cond) (rn rs : Reg) (sh : ShiftType) (rm : Reg) :
    EncodesCond.Statement (.cmppRegShift c rn rs sh rm) :=
  (layoutDpRegShift_fields _ _ _ _ _ _ _ _).1

theorem EncodesCond.cmnpImm (c : Cond) (rn : Reg) (rot : BitVec 4) (imm : BitVec 8) :
    EncodesCond.Statement (.cmnpImm c rn rot imm) :=
  (layoutDpImm_fields _ _ _ _ _ _ _).1

theorem EncodesCond.cmnpReg (c : Cond) (rn : Reg) (amt : BitVec 5) (sh : ShiftType) (rm : Reg) :
    EncodesCond.Statement (.cmnpReg c rn amt sh rm) :=
  (layoutDpReg_fields _ _ _ _ _ _ _ _).1

theorem EncodesCond.cmnpRegShift (c : Cond) (rn rs : Reg) (sh : ShiftType) (rm : Reg) :
    EncodesCond.Statement (.cmnpRegShift c rn rs sh rm) :=
  (layoutDpRegShift_fields _ _ _ _ _ _ _ _).1

theorem EncodesCond.andImm (c : Cond) (sb : Bool) (rn rd : Reg) (rot : BitVec 4) (imm : BitVec 8) :
    EncodesCond.Statement (.andImm c sb rn rd rot imm) :=
  (layoutDpImm_fields _ _ _ _ _ _ _).1

theorem EncodesCond.andReg (c : Cond) (sb : Bool) (rn rd : Reg) (amt : BitVec 5) (sh : ShiftType) (rm : Reg) :
    EncodesCond.Statement (.andReg c sb rn rd amt sh rm) :=
  (layoutDpReg_fields _ _ _ _ _ _ _ _).1

theorem EncodesCond.andRegShift (c : Cond) (sb : Bool) (rn rd rs : Reg) (sh : ShiftType) (rm : Reg) :
    EncodesCond.Statement (.andRegShift c sb rn rd rs sh rm) :=
  (layoutDpRegShift_fields _ _ _ _ _ _ _ _).1

theorem EncodesCond.eorImm (c : Cond) (sb : Bool) (rn rd : Reg) (rot : BitVec 4) (imm : BitVec 8) :
    EncodesCond.Statement (.eorImm c sb rn rd rot imm) :=
  (layoutDpImm_fields _ _ _ _ _ _ _).1

theorem EncodesCond.eorReg (c : Cond) (sb : Bool) (rn rd : Reg) (amt : BitVec 5) (sh : ShiftType) (rm : Reg) :
    EncodesCond.Statement (.eorReg c sb rn rd amt sh rm) :=
  (layoutDpReg_fields _ _ _ _ _ _ _ _).1

theorem EncodesCond.eorRegShift (c : Cond) (sb : Bool) (rn rd rs : Reg) (sh : ShiftType) (rm : Reg) :
    EncodesCond.Statement (.eorRegShift c sb rn rd rs sh rm) :=
  (layoutDpRegShift_fields _ _ _ _ _ _ _ _).1

theorem EncodesCond.subImm (c : Cond) (sb : Bool) (rn rd : Reg) (rot : BitVec 4) (imm : BitVec 8) :
    EncodesCond.Statement (.subImm c sb rn rd rot imm) :=
  (layoutDpImm_fields _ _ _ _ _ _ _).1

theorem EncodesCond.subReg (c : Cond) (sb : Bool) (rn rd : Reg) (amt : BitVec 5) (sh : ShiftType) (rm : Reg) :
    EncodesCond.Statement (.subReg c sb rn rd amt sh rm) :=
  (layoutDpReg_fields _ _ _ _ _ _ _ _).1

theorem EncodesCond.subRegShift (c : Cond) (sb : Bool) (rn rd rs : Reg) (sh : ShiftType) (rm : Reg) :
    EncodesCond.Statement (.subRegShift c sb rn rd rs sh rm) :=
  (layoutDpRegShift_fields _ _ _ _ _ _ _ _).1

theorem EncodesCond.rsbImm (c : Cond) (sb : Bool) (rn rd : Reg) (rot : BitVec 4) (imm : BitVec 8) :
    EncodesCond.Statement (.rsbImm c sb rn rd rot imm) :=
  (layoutDpImm_fields _ _ _ _ _ _ _).1

theorem EncodesCond.rsbReg (c : Cond) (sb : Bool) (rn rd : Reg) (amt : BitVec 5) (sh : ShiftType) (rm : Reg) :
    EncodesCond.Statement (.rsbReg c sb rn rd amt sh rm) :=
  (layoutDpReg_fields _ _ _ _ _ _ _ _).1

theorem EncodesCond.rsbRegShift (c : Cond) (sb : Bool) (rn rd rs : Reg) (sh : ShiftType) (rm : Reg) :
    EncodesCond.Statement (.rsbRegShift c sb rn rd rs sh rm) :=
  (layoutDpRegShift_fields _ _ _ _ _ _ _ _).1

theorem EncodesCond.addImm (c : Cond) (sb : Bool) (rn rd : Reg) (rot : BitVec 4) (imm : BitVec 8) :
    EncodesCond.Statement (.addImm c sb rn rd rot imm) :=
  (layoutDpImm_fields _ _ _ _ _ _ _).1

theorem EncodesCond.addReg (c : Cond) (sb : Bool) (rn rd : Reg) (amt : BitVec 5) (sh : ShiftType) (rm : Reg) :
    EncodesCond.Statement (.addReg c sb rn rd amt sh rm) :=
  (layoutDpReg_fields _ _ _ _ _ _ _ _).1

theorem EncodesCond.addRegShift (c : Cond) (sb : Bool) (rn rd rs : Reg) (sh : ShiftType) (rm : Reg) :
    EncodesCond.Statement (.addRegShift c sb rn rd rs sh rm) :=
  (layoutDpRegShift_fields _ _ _ _ _ _ _ _).1

theorem EncodesCond.adcImm (c : Cond) (sb : Bool) (rn rd : Reg) (rot : BitVec 4) (imm : BitVec 8) :
    EncodesCond.Statement (.adcImm c sb rn rd rot imm) :=
  (layoutDpImm_fields _ _ _ _ _ _ _).1

theorem EncodesCond.adcReg (c : Cond) (sb : Bool) (rn rd : Reg) (amt : BitVec 5) (sh : ShiftType) (rm : Reg) :
    EncodesCond.Statement (.adcReg c sb rn rd amt sh rm) :=
  (layoutDpReg_fields _ _ _ _ _ _ _ _).1

theorem EncodesCond.adcRegShift (c : Cond) (sb : Bool) (rn rd rs : Reg) (sh : ShiftType) (rm : Reg) :
    EncodesCond.Statement (.adcRegShift c sb rn rd rs sh rm) :=
  (layoutDpRegShift_fields _ _ _ _ _ _ _ _).1

theorem EncodesCond.sbcImm (c : Cond) (sb : Bool) (rn rd : Reg) (rot : BitVec 4) (imm : BitVec 8) :
    EncodesCond.Statement (.sbcImm c sb rn rd rot imm) :=
  (layoutDpImm_fields _ _ _ _ _ _ _).1

theorem EncodesCond.sbcReg (c : Cond) (sb : Bool) (rn rd : Reg) (amt : BitVec 5) (sh : ShiftType) (rm : Reg) :
    EncodesCond.Statement (.sbcReg c sb rn rd amt sh rm) :=
  (layoutDpReg_fields _ _ _ _ _ _ _ _).1

theorem EncodesCond.sbcRegShift (c : Cond) (sb : Bool) (rn rd rs : Reg) (sh : ShiftType) (rm : Reg) :
    EncodesCond.Statement (.sbcRegShift c sb rn rd rs sh rm) :=
  (layoutDpRegShift_fields _ _ _ _ _ _ _ _).1

theorem EncodesCond.rscImm (c : Cond) (sb : Bool) (rn rd : Reg) (rot : BitVec 4) (imm : BitVec 8) :
    EncodesCond.Statement (.rscImm c sb rn rd rot imm) :=
  (layoutDpImm_fields _ _ _ _ _ _ _).1

theorem EncodesCond.rscReg (c : Cond) (sb : Bool) (rn rd : Reg) (amt : BitVec 5) (sh : ShiftType) (rm : Reg) :
    EncodesCond.Statement (.rscReg c sb rn rd amt sh rm) :=
  (layoutDpReg_fields _ _ _ _ _ _ _ _).1

theorem EncodesCond.rscRegShift (c : Cond) (sb : Bool) (rn rd rs : Reg) (sh : ShiftType) (rm : Reg) :
    EncodesCond.Statement (.rscRegShift c sb rn rd rs sh rm) :=
  (layoutDpRegShift_fields _ _ _ _ _ _ _ _).1

theorem EncodesCond.tstImm (c : Cond) (rn rd : Reg) (rot : BitVec 4) (imm : BitVec 8) :
    EncodesCond.Statement (.tstImm c rn rd rot imm) :=
  (layoutDpImm_fields _ _ _ _ _ _ _).1

theorem EncodesCond.tstReg (c : Cond) (rn rd : Reg) (amt : BitVec 5) (sh : ShiftType) (rm : Reg) :
    EncodesCond.Statement (.tstReg c rn rd amt sh rm) :=
  (layoutDpReg_fields _ _ _ _ _ _ _ _).1

theorem EncodesCond.tstRegShift (c : Cond) (rn rd rs : Reg) (sh : ShiftType) (rm : Reg) :
    EncodesCond.Statement (.tstRegShift c rn rd rs sh rm) :=
  (layoutDpRegShift_fields _ _ _ _ _ _ _ _).1

theorem EncodesCond.teqImm (c : Cond) (rn rd : Reg) (rot : BitVec 4) (imm : BitVec 8) :
    EncodesCond.Statement (.teqImm c rn rd rot imm) :=
  (layoutDpImm_fields _ _ _ _ _ _ _).1

theorem EncodesCond.teqReg (c : Cond) (rn rd : Reg) (amt : BitVec 5) (sh : ShiftType) (rm : Reg) :
    EncodesCond.Statement (.teqReg c rn rd amt sh rm) :=
  (layoutDpReg_fields _ _ _ _ _ _ _ _).1

theorem EncodesCond.teqRegShift (c : Cond) (rn rd rs : Reg) (sh : ShiftType) (rm : Reg) :
    EncodesCond.Statement (.teqRegShift c rn rd rs sh rm) :=
  (layoutDpRegShift_fields _ _ _ _ _ _ _ _).1

theorem EncodesCond.cmpImm (c : Cond) (rn rd : Reg) (rot : BitVec 4) (imm : BitVec 8) :
    EncodesCond.Statement (.cmpImm c rn rd rot imm) :=
  (layoutDpImm_fields _ _ _ _ _ _ _).1

theorem EncodesCond.cmpReg (c : Cond) (rn rd : Reg) (amt : BitVec 5) (sh : ShiftType) (rm : Reg) :
    EncodesCond.Statement (.cmpReg c rn rd amt sh rm) :=
  (layoutDpReg_fields _ _ _ _ _ _ _ _).1

theorem EncodesCond.cmpRegShift (c : Cond) (rn rd rs : Reg) (sh : ShiftType) (rm : Reg) :
    EncodesCond.Statement (.cmpRegShift c rn rd rs sh rm) :=
  (layoutDpRegShift_fields _ _ _ _ _ _ _ _).1

theorem EncodesCond.cmnImm (c : Cond) (rn rd : Reg) (rot : BitVec 4) (imm : BitVec 8) :
    EncodesCond.Statement (.cmnImm c rn rd rot imm) :=
  (layoutDpImm_fields _ _ _ _ _ _ _).1

theorem EncodesCond.cmnReg (c : Cond) (rn rd : Reg) (amt : BitVec 5) (sh : ShiftType) (rm : Reg) :
    EncodesCond.Statement (.cmnReg c rn rd amt sh rm) :=
  (layoutDpReg_fields _ _ _ _ _ _ _ _).1

theorem EncodesCond.cmnRegShift (c : Cond) (rn rd rs : Reg) (sh : ShiftType) (rm : Reg) :
    EncodesCond.Statement (.cmnRegShift c rn rd rs sh rm) :=
  (layoutDpRegShift_fields _ _ _ _ _ _ _ _).1

theorem EncodesCond.orrImm (c : Cond) (sb : Bool) (rn rd : Reg) (rot : BitVec 4) (imm : BitVec 8) :
    EncodesCond.Statement (.orrImm c sb rn rd rot imm) :=
  (layoutDpImm_fields _ _ _ _ _ _ _).1

theorem EncodesCond.orrReg (c : Cond) (sb : Bool) (rn rd : Reg) (amt : BitVec 5) (sh : ShiftType) (rm : Reg) :
    EncodesCond.Statement (.orrReg c sb rn rd amt sh rm) :=
  (layoutDpReg_fields _ _ _ _ _ _ _ _).1

theorem EncodesCond.orrRegShift (c : Cond) (sb : Bool) (rn rd rs : Reg) (sh : ShiftType) (rm : Reg) :
    EncodesCond.Statement (.orrRegShift c sb rn rd rs sh rm) :=
  (layoutDpRegShift_fields _ _ _ _ _ _ _ _).1

theorem EncodesCond.movImm (c : Cond) (sb : Bool) (rn rd : Reg) (rot : BitVec 4) (imm : BitVec 8) :
    EncodesCond.Statement (.movImm c sb rn rd rot imm) :=
  (layoutDpImm_fields _ _ _ _ _ _ _).1

theorem EncodesCond.movReg (c : Cond) (sb : Bool) (rn rd : Reg) (amt : BitVec 5) (sh : ShiftType) (rm : Reg) :
    EncodesCond.Statement (.movReg c sb rn rd amt sh rm) :=
  (layoutDpReg_fields _ _ _ _ _ _ _ _).1

theorem EncodesCond.movRegShift (c : Cond) (sb : Bool) (rn rd rs : Reg) (sh : ShiftType) (rm : Reg) :
    EncodesCond.Statement (.movRegShift c sb rn rd rs sh rm) :=
  (layoutDpRegShift_fields _ _ _ _ _ _ _ _).1

theorem EncodesCond.bicImm (c : Cond) (sb : Bool) (rn rd : Reg) (rot : BitVec 4) (imm : BitVec 8) :
    EncodesCond.Statement (.bicImm c sb rn rd rot imm) :=
  (layoutDpImm_fields _ _ _ _ _ _ _).1

theorem EncodesCond.bicReg (c : Cond) (sb : Bool) (rn rd : Reg) (amt : BitVec 5) (sh : ShiftType) (rm : Reg) :
    EncodesCond.Statement (.bicReg c sb rn rd amt sh rm) :=
  (layoutDpReg_fields _ _ _ _ _ _ _ _).1

theorem EncodesCond.bicRegShift (c : Cond) (sb : Bool) (rn rd rs : Reg) (sh : ShiftType) (rm : Reg) :
    EncodesCond.Statement (.bicRegShift c sb rn rd rs sh rm) :=
  (layoutDpRegShift_fields _ _ _ _ _ _ _ _).1

theorem EncodesCond.mvnImm (c : Cond) (sb : Bool) (rn rd : Reg) (rot : BitVec 4) (imm : BitVec 8) :
    EncodesCond.Statement (.mvnImm c sb rn rd rot imm) :=
  (layoutDpImm_fields _ _ _ _ _ _ _).1

theorem EncodesCond.mvnReg (c : Cond) (sb : Bool) (rn rd : Reg) (amt : BitVec 5) (sh : ShiftType) (rm : Reg) :
    EncodesCond.Statement (.mvnReg c sb rn rd amt sh rm) :=
  (layoutDpReg_fields _ _ _ _ _ _ _ _).1

theorem EncodesCond.mvnRegShift (c : Cond) (sb : Bool) (rn rd rs : Reg) (sh : ShiftType) (rm : Reg) :
    EncodesCond.Statement (.mvnRegShift c sb rn rd rs sh rm) :=
  (layoutDpRegShift_fields _ _ _ _ _ _ _ _).1

theorem EncodesCond.ldrtImm (c : Cond) (u : Bool) (rn rd : Reg) (off : BitVec 12) :
    EncodesCond.Statement (.ldrtImm c u rn rd off) :=
  (layoutTransferImm_fields _ _ _ _ _ _ _ _ _).1

theorem EncodesCond.ldrtReg (c : Cond) (u : Bool) (rn rd : Reg) (amt : BitVec 5) (sh : ShiftType) (rm : Reg) :
    EncodesCond.Statement (.ldrtReg c u rn rd amt sh rm) :=
  (layoutTransferReg_fields _ _ _ _ _ _ _ _ _ _ _).1

theorem EncodesCond.strtImm (c : Cond) (u : Bool) (rn rd : Reg) (off : BitVec 12) :
    EncodesCond.Statement (.strtImm c u rn rd off) :=
  (layoutTransferImm_fields _ _ _ _ _ _ _ _ _).1

theorem EncodesCond.strtReg (c : Cond) (u : Bool) (rn rd : Reg) (amt : BitVec 5) (sh : ShiftType) (rm : Reg) :
    EncodesCond.Statement (.strtReg c u rn rd amt sh rm) :=
  (layoutTransferReg_fields _ _ _ _ _ _ _ _ _ _ _).1

theorem EncodesCond.ldrbtImm (c : Cond) (u : Bool) (rn rd : Reg) (off : BitVec 12) :
    EncodesCond.Statement (.ldrbtImm c u rn rd off) :=
  (layoutTransferImm_fields _ _ _ _ _ _ _ _ _).1

theorem EncodesCond.ldrbtReg (c : Cond) (u : Bool) (rn rd : Reg) (amt : BitVec 5) (sh : ShiftType) (rm : Reg) :
    EncodesCond.Statement (.ldrbtReg c u rn rd amt sh rm) :=
  (layoutTransferReg_fields _ _ _ _ _ _ _ _ _ _ _).1

theorem EncodesCond.strbtImm (c : Cond) (u : Bool) (rn rd : Reg) (off : BitVec 12) :
    EncodesCond.Statement (.strbtImm c u rn rd off) :=
  (layoutTransferImm_fields _ _ _ _ _ _ _ _ _).1

theorem EncodesCond.strbtReg (c : Cond) (u : Bool) (rn rd : Reg) (amt : BitVec 5) (sh : ShiftType) (rm : Reg) :
    EncodesCond.Statement (.strbtReg c u rn rd amt sh rm) :=
  (layoutTransferReg_fields _ _ _ _ _ _ _ _ _ _ _).1

theorem EncodesCond.ldrImm (c : Cond) (p u w : Bool) (rn rd : Reg) (off : BitVec 12) :
    EncodesCond.Statement (.ldrImm c p u w rn rd off) :=
  (layoutTransferImm_fields _ _ _ _ _ _ _ _ _).1

theorem EncodesCond.ldrReg (c : Cond) (p u w : Bool) (rn rd : Reg) (amt : BitVec 5) (sh : ShiftType) (rm : Reg) :
    EncodesCond.Statement (.ldrReg c p u w rn rd amt sh rm) :=
  (layoutTransferReg_fields _ _ _ _ _ _ _ _ _ _ _).1

theorem EncodesCond.strImm (c : Cond) (p u w : Bool) (rn rd : Reg) (off : BitVec 12) :
    EncodesCond.Statement (.strImm c p u w rn rd off) :=
  (layoutTransferImm_fields _ _ _ _ _ _ _ _ _).1

theorem EncodesCond.strReg (c : Cond) (p u w : Bool) (rn rd : Reg) (amt : BitVec 5) (sh : ShiftType) (rm : Reg) :
    EncodesCond.Statement (.strReg c p u w rn rd amt sh rm) :=
  (layoutTransferReg_fields _ _ _ _ _ _ _ _ _ _ _).1

theorem EncodesCond.ldrbImm (c : Cond) (p u w : Bool) (rn rd : Reg) (off : BitVec 12) :
    EncodesCond.Statement (.ldrbImm c p u w rn rd off) :=
  (layoutTransferImm_fields _ _ _ _ _ _ _ _ _).1

theorem EncodesCond.ldrbReg (c : Cond) (p u w : Bool) (rn rd : Reg) (amt : BitVec 5) (sh : ShiftType) (rm : Reg) :
    EncodesCond.Statement (.ldrbReg c p u w rn rd amt sh rm) :=
  (layoutTransferReg_fields _ _ _ _ _ _ _ _ _ _ _).1

theorem EncodesCond.strbImm (c : Cond) (p u w : Bool) (rn rd : Reg) (off : BitVec 12) :
    EncodesCond.Statement (.strbImm c p u w rn rd off) :=
  (layoutTransferImm_fields _ _ _ _ _ _ _ _ _).1

theorem EncodesCond.strbReg (c : Cond) (p u w : Bool) (rn rd : Reg) (amt : BitVec 5) (sh : ShiftType) (rm : Reg) :
    EncodesCond.Statement (.strbReg c p u w rn rd amt sh rm) :=
  (layoutTransferReg_fields _ _ _ _ _ _ _ _ _ _ _).1

theorem EncodesCond.undefined (c : Cond) (hi : BitVec 20) (lo : BitVec 4) :
    EncodesCond.Statement (.undefined c hi lo) :=
  (encode_undefined_fields c hi lo).1

theorem EncodesCond.ldmia (c : Cond) (sb w : Bool) (rn : Reg) (list : BitVec 16) :
    EncodesCond.Statement (.ldmia c sb w rn list) :=
  (layoutBlock_fields _ _ _ _ _ _ _ _).1

theorem EncodesCond.ldmib (c : Cond) (sb w : Bool) (rn : Reg) (list : BitVec 16) :
    EncodesCond.Statement (.ldmib c sb w rn list) :=
  (layoutBlock_fields _ _ _ _ _ _ _ _).1

theorem EncodesCond.ldmda (c : Cond) (sb w : Bool) (rn : Reg) (list : BitVec 16) :
    EncodesCond.Statement (.ldmda c sb w rn list) :=
  (layoutBlock_fields _ _ _ _ _ _ _ _).1

theorem EncodesCond.ldmdb (c : Cond) (sb w : Bool) (rn : Reg) (list : BitVec 16) :
    EncodesCond.Statement (.ldmdb c sb w rn list) :=
  (layoutBlock_fields _ _ _ _ _ _ _ _).1

theorem EncodesCond.stmia (c : Cond) (sb w : Bool) (rn : Reg) (list : BitVec 16) :
    EncodesCond.Statement (.stmia c sb w rn list) :=
  (layoutBlock_fields _ _ _ _ _ _ _ _).1

theorem EncodesCond.stmib (c : Cond) (sb w : Bool) (rn : Reg) (list : BitVec 16) :
    EncodesCond.Statement (.stmib c sb w rn list) :=
  (layoutBlock_fields _ _ _ _ _ _ _ _).1

theorem EncodesCond.stmda (c : Cond) (sb w : Bool) (rn : Reg) (list : BitVec 16) :
    EncodesCond.Statement (.stmda c sb w rn list) :=
  (layoutBlock_fields _ _ _ _ _ _ _ _).1

theorem EncodesCond.stmdb (c : Cond) (sb w : Bool) (rn : Reg) (list : BitVec 16) :
    EncodesCond.Statement (.stmdb c sb w rn list) :=
  (layoutBlock_fields _ _ _ _ _ _ _ _).1

theorem EncodesCond.b (c : Cond) (off : BitVec 24) :
    EncodesCond.Statement (.b c off) :=
  (encode_b_fields c off).1

theorem EncodesCond.bl (c : Cond) (off : BitVec 24) :
    EncodesCond.Statement (.bl c off) :=
  (encode_bl_fields c off).1

theorem EncodesCond.ldc (c : Cond) (p u n w : Bool) (rn : Reg) (crd cp : BitVec 4) (off : BitVec 8) :
    EncodesCond.Statement (.ldc c p u n w rn crd cp off) :=
  (layoutCpTransfer_fields _ _ _ _ _ _ _ _ _ _).1

theorem EncodesCond.stc (c : Cond) (p u n w : Bool) (rn : Reg) (crd cp : BitVec 4) (off : BitVec 8) :
    EncodesCond.Statement (.stc c p u n w rn crd cp off) :=
  (layoutCpTransfer_fields _ _ _ _ _ _ _ _ _ _).1

theorem EncodesCond.cdp (c : Cond) (op crn crd cp : BitVec 4) (q : BitVec 3) (crm : BitVec 4) :
    EncodesCond.Statement (.cdp c op crn crd cp q crm) :=
  (encode_cdp_fields c op crn crd cp q crm).1

theorem EncodesCond.mrc (c : Cond) (op : BitVec 3) (crn : BitVec 4) (rd : Reg) (cp : BitVec 4) (q : BitVec 3) (crm : BitVec 4) :
    EncodesCond.Statement (.mrc c op crn rd cp q crm) :=
  (layoutCpReg_fields _ _ _ _ _ _ _ _).1

theorem EncodesCond.mcr (c : Cond) (op : BitVec 3) (crn : BitVec 4) (rd : Reg) (cp : BitVec 4) (q : BitVec 3) (crm : BitVec 4) :
    EncodesCond.Statement (.mcr c op crn rd cp q crm) :=
  (layoutCpReg_fields _ _ _ _ _ _ _ _).1

theorem EncodesCond.swi (c : Cond) (comment : BitVec 24) :
    EncodesCond.Statement (.swi c comment) :=
  (encode_swi_fields c comment).1

end Sys2Proof.Laws
end

