-- ==== Sys2Proof/Tests/Slice0.lean ====
section
/-!
SUPPORT. Tests: what WellFormed refuses, a word of each instruction, single steps of the spec's own vectors, and for each
statement with hypotheses a state and operands that meet them.
-/

namespace Sys2Proof.Tests

open Sys2Proof Sys2Proof.Machine

/-! ## What WellFormed refuses -/

theorem test_wf_test_with_rd15 :
    WellFormed .arm6 (.tstImm .al 1#4 15#4 0#4 0#8) = false ∧ WellFormed .arm6 (.cmnRegShift .al 1#4 15#4 2#4 .lsl 3#4) = false ∧
    WellFormed .arm6 (.teqReg .al 1#4 15#4 0#5 .lsl 3#4) = false ∧ WellFormed .arm6 (.cmpImm .al 1#4 15#4 0#4 0#8) = false ∧
    WellFormed .arm6 (.tstImm .al 1#4 14#4 0#4 0#8) = true := by decide

theorem test_wf_post_indexed_with_w :
    WellFormed .arm6 (.ldrImm .al false true true 1#4 2#4 0#12) = false ∧
    WellFormed .arm6 (.strReg .al false true true 1#4 2#4 0#5 .lsl 3#4) = false ∧
    WellFormed .arm6 (.ldrbImm .al false true true 1#4 2#4 0#12) = false ∧
    WellFormed .arm6 (.strbReg .al false true true 1#4 2#4 0#5 .lsl 3#4) = false ∧
    WellFormed .arm6 (.ldrImm .al true true true 1#4 2#4 0#12) = true := by decide

theorem test_wf_part_without_instruction :
    WellFormed .arm6 (.umull .al false 1#4 2#4 3#4 4#4) = false ∧ WellFormed .arm6 (.smlal .al false 1#4 2#4 3#4 4#4) = false ∧
    WellFormed .arm2 (.swp .al 1#4 2#4 3#4) = false ∧ WellFormed .arm2 (.swpb .al 1#4 2#4 3#4) = false ∧
    WellFormed .arm2as (.undefinedArm2 .al 0#16 0#2 0#4) = false ∧ WellFormed .arm3 (.mrs .al false 1#4) = false ∧
    WellFormed .arm3 (.msrReg .al false .all 1#4) = false ∧ WellFormed .arm3 (.msrImm .al false .flg 0#4 0#8) = false := by
  decide

/-! ## One word of each instruction, its bits from spec/opcode_table.json's fixed bits and fields -/

theorem test_decode_multiply :
    decode .arm7dm 0x5003CA95#32 = .ok (.mul .pl false 3#4 12#4 10#4 5#4) ∧
    decode .arm7dm 0xA033CA95#32 = .ok (.mla .ge true 3#4 12#4 10#4 5#4) := by decide

theorem test_decode_long_multiply :
    decode .arm7dm 0x00896A95#32 = .ok (.umull .eq false 9#4 6#4 10#4 5#4) ∧
    decode .arm7dm 0x50B96A95#32 = .ok (.umlal .pl true 9#4 6#4 10#4 5#4) ∧
    decode .arm7dm 0xA0C96A95#32 = .ok (.smull .ge false 9#4 6#4 10#4 5#4) ∧
    decode .arm7dm 0x00F96A95#32 = .ok (.smlal .eq true 9#4 6#4 10#4 5#4) := by decide

theorem test_decode_swap :
    decode .arm7dm 0x510C3095#32 = .ok (.swp .pl 12#4 3#4 5#4) ∧
    decode .arm7dm 0xA14C3095#32 = .ok (.swpb .ge 12#4 3#4 5#4) := by decide

theorem test_decode_undefined :
    decode .arm2 0x014D0FD6#32 = .ok (.undefinedArm2 .eq 0x4D0F#16 2#2 6#4) ∧
    decode .arm7dm 0xA74A78D9#32 = .ok (.undefined .ge 0xA53C6#20 9#4) := by decide

theorem test_decode_psr_transfer :
    decode .arm7dm 0x514F3000#32 = .ok (.mrs .pl true 3#4) ∧
    decode .arm7dm 0xA129F005#32 = .ok (.msrReg .ge false .all 5#4) ∧
    decode .arm7dm 0x0361FD9D#32 = .ok (.msrImm .eq true .ctl 0xD#4 0x9D#8) := by decide

theorem test_decode_data_processing_imm :
    decode .arm7dm 0x531CFD9D#32 = .ok (.tstpImm .pl 12#4 0xD#4 0x9D#8) ∧
    decode .arm7dm 0x533CFD9D#32 = .ok (.teqpImm .pl 12#4 0xD#4 0x9D#8) ∧
    decode .arm7dm 0x535CFD9D#32 = .ok (.cmppImm .pl 12#4 0xD#4 0x9D#8) ∧
    decode .arm7dm 0x537CFD9D#32 = .ok (.cmnpImm .pl 12#4 0xD#4 0x9D#8) ∧
    decode .arm7dm 0x520C3D9D#32 = .ok (.andImm .pl false 12#4 3#4 0xD#4 0x9D#8) ∧
    decode .arm7dm 0x523C3D9D#32 = .ok (.eorImm .pl true 12#4 3#4 0xD#4 0x9D#8) ∧
    decode .arm7dm 0x524C3D9D#32 = .ok (.subImm .pl false 12#4 3#4 0xD#4 0x9D#8) ∧
    decode .arm7dm 0x527C3D9D#32 = .ok (.rsbImm .pl true 12#4 3#4 0xD#4 0x9D#8) ∧
    decode .arm7dm 0x528C3D9D#32 = .ok (.addImm .pl false 12#4 3#4 0xD#4 0x9D#8) ∧
    decode .arm7dm 0x52BC3D9D#32 = .ok (.adcImm .pl true 12#4 3#4 0xD#4 0x9D#8) ∧
    decode .arm7dm 0x52CC3D9D#32 = .ok (.sbcImm .pl false 12#4 3#4 0xD#4 0x9D#8) ∧
    decode .arm7dm 0x52FC3D9D#32 = .ok (.rscImm .pl true 12#4 3#4 0xD#4 0x9D#8) ∧
    decode .arm7dm 0x531C3D9D#32 = .ok (.tstImm .pl 12#4 3#4 0xD#4 0x9D#8) ∧
    decode .arm7dm 0x533C3D9D#32 = .ok (.teqImm .pl 12#4 3#4 0xD#4 0x9D#8) ∧
    decode .arm7dm 0x535C3D9D#32 = .ok (.cmpImm .pl 12#4 3#4 0xD#4 0x9D#8) ∧
    decode .arm7dm 0x537C3D9D#32 = .ok (.cmnImm .pl 12#4 3#4 0xD#4 0x9D#8) ∧
    decode .arm7dm 0x538C3D9D#32 = .ok (.orrImm .pl false 12#4 3#4 0xD#4 0x9D#8) ∧
    decode .arm7dm 0x53BC3D9D#32 = .ok (.movImm .pl true 12#4 3#4 0xD#4 0x9D#8) ∧
    decode .arm7dm 0x53CC3D9D#32 = .ok (.bicImm .pl false 12#4 3#4 0xD#4 0x9D#8) ∧
    decode .arm7dm 0x53FC3D9D#32 = .ok (.mvnImm .pl true 12#4 3#4 0xD#4 0x9D#8) := by decide

theorem test_decode_data_processing_reg :
    decode .arm7dm 0xA11CF9C5#32 = .ok (.tstpReg .ge 12#4 0x13#5 .asr 5#4) ∧
    decode .arm7dm 0xA13CF9A5#32 = .ok (.teqpReg .ge 12#4 0x13#5 .lsr 5#4) ∧
    decode .arm7dm 0xA15CF985#32 = .ok (.cmppReg .ge 12#4 0x13#5 .lsl 5#4) ∧
    decode .arm7dm 0xA17CF9E5#32 = .ok (.cmnpReg .ge 12#4 0x13#5 .ror 5#4) ∧
    decode .arm7dm 0xA01C39C5#32 = .ok (.andReg .ge true 12#4 3#4 0x13#5 .asr 5#4) ∧
    decode .arm7dm 0xA02C39A5#32 = .ok (.eorReg .ge false 12#4 3#4 0x13#5 .lsr 5#4) ∧
    decode .arm7dm 0xA05C3985#32 = .ok (.subReg .ge true 12#4 3#4 0x13#5 .lsl 5#4) ∧
    decode .arm7dm 0xA06C39E5#32 = .ok (.rsbReg .ge false 12#4 3#4 0x13#5 .ror 5#4) ∧
    decode .arm7dm 0xA09C39C5#32 = .ok (.addReg .ge true 12#4 3#4 0x13#5 .asr 5#4) ∧
    decode .arm7dm 0xA0AC39A5#32 = .ok (.adcReg .ge false 12#4 3#4 0x13#5 .lsr 5#4) ∧
    decode .arm7dm 0xA0DC3985#32 = .ok (.sbcReg .ge true 12#4 3#4 0x13#5 .lsl 5#4) ∧
    decode .arm7dm 0xA0EC39E5#32 = .ok (.rscReg .ge false 12#4 3#4 0x13#5 .ror 5#4) ∧
    decode .arm7dm 0xA11C39C5#32 = .ok (.tstReg .ge 12#4 3#4 0x13#5 .asr 5#4) ∧
    decode .arm7dm 0xA13C39A5#32 = .ok (.teqReg .ge 12#4 3#4 0x13#5 .lsr 5#4) ∧
    decode .arm7dm 0xA15C3985#32 = .ok (.cmpReg .ge 12#4 3#4 0x13#5 .lsl 5#4) ∧
    decode .arm7dm 0xA17C39E5#32 = .ok (.cmnReg .ge 12#4 3#4 0x13#5 .ror 5#4) ∧
    decode .arm7dm 0xA19C39C5#32 = .ok (.orrReg .ge true 12#4 3#4 0x13#5 .asr 5#4) ∧
    decode .arm7dm 0xA1AC39A5#32 = .ok (.movReg .ge false 12#4 3#4 0x13#5 .lsr 5#4) ∧
    decode .arm7dm 0xA1DC3985#32 = .ok (.bicReg .ge true 12#4 3#4 0x13#5 .lsl 5#4) ∧
    decode .arm7dm 0xA1EC39E5#32 = .ok (.mvnReg .ge false 12#4 3#4 0x13#5 .ror 5#4) := by decide

theorem test_decode_data_processing_regshift :
    decode .arm7dm 0x011CFA75#32 = .ok (.tstpRegShift .eq 12#4 10#4 .ror 5#4) ∧
    decode .arm7dm 0x013CFA55#32 = .ok (.teqpRegShift .eq 12#4 10#4 .asr 5#4) ∧
    decode .arm7dm 0x015CFA35#32 = .ok (.cmppRegShift .eq 12#4 10#4 .lsr 5#4) ∧
    decode .arm7dm 0x017CFA15#32 = .ok (.cmnpRegShift .eq 12#4 10#4 .lsl 5#4) ∧
    decode .arm7dm 0x000C3A75#32 = .ok (.andRegShift .eq false 12#4 3#4 10#4 .ror 5#4) ∧
    decode .arm7dm 0x003C3A55#32 = .ok (.eorRegShift .eq true 12#4 3#4 10#4 .asr 5#4) ∧
    decode .arm7dm 0x004C3A35#32 = .ok (.subRegShift .eq false 12#4 3#4 10#4 .lsr 5#4) ∧
    decode .arm7dm 0x007C3A15#32 = .ok (.rsbRegShift .eq true 12#4 3#4 10#4 .lsl 5#4) ∧
    decode .arm7dm 0x008C3A75#32 = .ok (.addRegShift .eq false 12#4 3#4 10#4 .ror 5#4) ∧
    decode .arm7dm 0x00BC3A55#32 = .ok (.adcRegShift .eq true 12#4 3#4 10#4 .asr 5#4) ∧
    decode .arm7dm 0x00CC3A35#32 = .ok (.sbcRegShift .eq false 12#4 3#4 10#4 .lsr 5#4) ∧
    decode .arm7dm 0x00FC3A15#32 = .ok (.rscRegShift .eq true 12#4 3#4 10#4 .lsl 5#4) ∧
    decode .arm7dm 0x011C3A75#32 = .ok (.tstRegShift .eq 12#4 3#4 10#4 .ror 5#4) ∧
    decode .arm7dm 0x013C3A55#32 = .ok (.teqRegShift .eq 12#4 3#4 10#4 .asr 5#4) ∧
    decode .arm7dm 0x015C3A35#32 = .ok (.cmpRegShift .eq 12#4 3#4 10#4 .lsr 5#4) ∧
    decode .arm7dm 0x017C3A15#32 = .ok (.cmnRegShift .eq 12#4 3#4 10#4 .lsl 5#4) ∧
    decode .arm7dm 0x018C3A75#32 = .ok (.orrRegShift .eq false 12#4 3#4 10#4 .ror 5#4) ∧
    decode .arm7dm 0x01BC3A55#32 = .ok (.movRegShift .eq true 12#4 3#4 10#4 .asr 5#4) ∧
    decode .arm7dm 0x01CC3A35#32 = .ok (.bicRegShift .eq false 12#4 3#4 10#4 .lsr 5#4) ∧
    decode .arm7dm 0x01FC3A15#32 = .ok (.mvnRegShift .eq true 12#4 3#4 10#4 .lsl 5#4) := by decide

theorem test_decode_single_data_transfer_imm :
    decode .arm7dm 0x543C3A5C#32 = .ok (.ldrtImm .pl false 12#4 3#4 0xA5C#12) ∧
    decode .arm7dm 0x042C3A5C#32 = .ok (.strtImm .eq false 12#4 3#4 0xA5C#12) ∧
    decode .arm7dm 0xA47C3A5C#32 = .ok (.ldrbtImm .ge false 12#4 3#4 0xA5C#12) ∧
    decode .arm7dm 0x546C3A5C#32 = .ok (.strbtImm .pl false 12#4 3#4 0xA5C#12) ∧
    decode .arm7dm 0x049C3A5C#32 = .ok (.ldrImm .eq false true false 12#4 3#4 0xA5C#12) ∧
    decode .arm7dm 0xA5AC3A5C#32 = .ok (.strImm .ge true true true 12#4 3#4 0xA5C#12) ∧
    decode .arm7dm 0x55FC3A5C#32 = .ok (.ldrbImm .pl true true true 12#4 3#4 0xA5C#12) ∧
    decode .arm7dm 0x04CC3A5C#32 = .ok (.strbImm .eq false true false 12#4 3#4 0xA5C#12) := by decide

theorem test_decode_single_data_transfer_reg :
    decode .arm7dm 0xA6BC39C5#32 = .ok (.ldrtReg .ge true 12#4 3#4 0x13#5 .asr 5#4) ∧
    decode .arm7dm 0x56AC3985#32 = .ok (.strtReg .pl true 12#4 3#4 0x13#5 .lsl 5#4) ∧
    decode .arm7dm 0x06FC39C5#32 = .ok (.ldrbtReg .eq true 12#4 3#4 0x13#5 .asr 5#4) ∧
    decode .arm7dm 0xA6EC3985#32 = .ok (.strbtReg .ge true 12#4 3#4 0x13#5 .lsl 5#4) ∧
    decode .arm7dm 0x571C39C5#32 = .ok (.ldrReg .pl true false false 12#4 3#4 0x13#5 .asr 5#4) ∧
    decode .arm7dm 0x060C3985#32 = .ok (.strReg .eq false false false 12#4 3#4 0x13#5 .lsl 5#4) ∧
    decode .arm7dm 0xA75C39C5#32 = .ok (.ldrbReg .ge true false false 12#4 3#4 0x13#5 .asr 5#4) ∧
    decode .arm7dm 0x574C3985#32 = .ok (.strbReg .pl true false false 12#4 3#4 0x13#5 .lsl 5#4) := by decide

theorem test_decode_block_data_transfer :
    decode .arm7dm 0x08DC8C61#32 = .ok (.ldmia .eq true false 12#4 0x8C61#16) ∧
    decode .arm7dm 0x59BC8C61#32 = .ok (.ldmib .pl false true 12#4 0x8C61#16) ∧
    decode .arm7dm 0xA85C8C61#32 = .ok (.ldmda .ge true false 12#4 0x8C61#16) ∧
    decode .arm7dm 0x093C8C61#32 = .ok (.ldmdb .eq false true 12#4 0x8C61#16) ∧
    decode .arm7dm 0x58CC8C61#32 = .ok (.stmia .pl true false 12#4 0x8C61#16) ∧
    decode .arm7dm 0xA9AC8C61#32 = .ok (.stmib .ge false true 12#4 0x8C61#16) ∧
    decode .arm7dm 0x084C8C61#32 = .ok (.stmda .eq true false 12#4 0x8C61#16) ∧
    decode .arm7dm 0x592C8C61#32 = .ok (.stmdb .pl false true 12#4 0x8C61#16) := by decide

theorem test_decode_branch :
    decode .arm7dm 0xAAC0FFE1#32 = .ok (.b .ge 0xC0FFE1#24) ∧
    decode .arm7dm 0x0BC0FFE1#32 = .ok (.bl .eq 0xC0FFE1#24) := by decide

theorem test_decode_coprocessor_data_transfer :
    decode .arm7dm 0x5D5CDB9D#32 = .ok (.ldc .pl true false true false 12#4 13#4 11#4 0x9D#8) ∧
    decode .arm7dm 0xACACDB9D#32 = .ok (.stc .ge false true false true 12#4 13#4 11#4 0x9D#8) := by decide

theorem test_decode_coprocessor_data_operation :
    decode .arm7dm 0x0EB2DBA7#32 = .ok (.cdp .eq 0xB#4 2#4 13#4 11#4 0x5#3 7#4) := by decide

theorem test_decode_coprocessor_register_transfer :
    decode .arm7dm 0x5EB23BB7#32 = .ok (.mrc .pl 0x5#3 2#4 3#4 11#4 0x5#3 7#4) ∧
    decode .arm7dm 0xAEA23BB7#32 = .ok (.mcr .ge 0x5#3 2#4 3#4 11#4 0x5#3 7#4) := by decide

theorem test_decode_software_interrupt :
    decode .arm7dm 0x0FC0FFE1#32 = .ok (.swi .eq 0xC0FFE1#24) := by decide

/-! ## Single steps, each a row of 95_test_vectors (its section in the name) -/

/-- The machine of a test: a part, its exception entry, a mode, flags, registers by the names of that mode, words of
memory; `pc` 0x8000, I and F clear (95_test_vectors, conventions). -/
def machine (v : Variant) (m : Mode) (nzcv : BitVec 4) (rs : List (Reg × Word)) (ms : List (Nat × Word)) : State :=
  let s := State.powerOn { defaultCfg with variant := v }
  let psr : Psr := { n := nzcv.getLsbD 3, z := nzcv.getLsbD 2, c := nzcv.getLsbD 1, v := nzcv.getLsbD 0,
                     i := false, f := false, mode := m }
  let t : State := { s with pc := 0x8000#32, psr := psr,
                            mem := ms.foldl (fun x a => Memory.writeBytes x a.1 (bytesOfWord a.2)) [] }
  rs.foldl (fun x r => x.setReg r.1 r.2) t

/-- The same on a part whose exceptions stay in the 26-bit modes. -/
def not32 (s : State) : State := { s with cfg := { s.cfg with prog32 := false } }

/-- I and F set as given. -/
def masked (i f : Bool) (s : State) : State := { s with psr := { s.psr with i := i, f := f } }

/-- The answer is a next state with the property. -/
def nextOf (a : Answer) (p : State → Bool) : Bool :=
  match a with
  | .next t => p t
  | .fault _ | .refused _ => false

/-- The answer is the refusal. -/
def refusedWith (a : Answer) (r : Refusal) : Bool :=
  match a with
  | .refused q => decide (q = r)
  | .next _ | .fault _ => false

/-- The answer is the fault. -/
def faultsWith (a : Answer) (f : Fault) : Bool :=
  match a with
  | .fault q => decide (q = f)
  | .next _ | .refused _ => false

/-- The word placed at `pc` and one step taken gives a next state with the property. -/
def after (s : State) (w : Word) (p : State → Bool) : Bool := nextOf (step (s.placeWord w)) p

/-- The word placed at `pc` and one step taken is refused for the reason. -/
def refuses (s : State) (w : Word) (r : Refusal) : Bool := refusedWith (step (s.placeWord w)) r

/-- N, Z, C, V as four bits. -/
def nzcv (t : State) : BitVec 4 :=
  BitVec.ofBool t.psr.n ++ BitVec.ofBool t.psr.z ++ BitVec.ofBool t.psr.c ++ BitVec.ofBool t.psr.v

/-- A register and the flags after a step. -/
def gives (r : Reg) (v : Word) (f : BitVec 4) (t : State) : Bool := t.reg r == v && nzcv t == f

theorem test_v1_logical :
    after (machine .arm6 .usr32 3#4 [(3, 0xF0F0F0F0#32), (4, 0x0FF00FF0#32)] []) 0xE1130004#32
        (fun t => nzcv t == 3#4 && t.pc == 0x8004#32) = true ∧
    after (machine .arm6 .usr32 7#4 [(3, 0xF0F0F0F0#32), (4, 0x0FF00FF0#32)] []) 0xE1930004#32
        (gives 0 0xFFF0FFF0#32 11#4) = true ∧
    after (machine .arm6 .usr32 8#4 [(3, 0xF0F0F0F0#32), (5, 0xFFFFFFFF#32)] []) 0xE1D50003#32
        (gives 0 0x0F0F0F0F#32 0#4) = true ∧
    after (machine .arm6 .usr32 6#4 [] []) 0xE3F00000#32 (gives 0 0xFFFFFFFF#32 10#4) = true := by decide

theorem test_v1_arithmetic :
    after (machine .arm6 .usr32 2#4 [(5, 0xFFFFFFFF#32), (6, 0#32)] []) 0xE0B50006#32 (gives 0 0#32 6#4) = true ∧
    after (machine .arm6 .usr32 0#4 [(2, 1#32)] []) 0xE0D20002#32 (gives 0 0xFFFFFFFF#32 8#4) = true ∧
    after (machine .arm6 .usr32 0#4 [(2, 1#32), (7, 0x80000000#32)] []) 0xE0F20007#32 (gives 0 0x7FFFFFFE#32 3#4) = true ∧
    after (machine .arm6 .usr32 0#4 [(2, 1#32), (7, 0x80000000#32)] []) 0xE1570002#32 (fun t => nzcv t == 3#4) = true ∧
    after (machine .arm6 .usr32 0#4 [(1, 0x7FFFFFFF#32), (2, 1#32)] []) 0xE1710002#32 (fun t => nzcv t == 9#4) = true := by
  decide

theorem test_v1_condition :
    after (machine .arm6 .usr32 0#4 [(0, 0x55#32)] []) 0x00810002#32 (gives 0 0x55#32 0#4) = true ∧
    after (machine .arm6 .usr32 10#4 [] []) 0xF1A00000#32 (fun t => t.pc == 0x8004#32) = true := by decide

theorem test_v2_constant_shifts :
    after (machine .arm6 .usr32 0#4 [(1, 0x80000001#32)] []) 0xE1B00021#32 (gives 0 0#32 6#4) = true ∧
    after (machine .arm6 .usr32 0#4 [(1, 0x80000001#32)] []) 0xE1B00041#32 (gives 0 0xFFFFFFFF#32 10#4) = true ∧
    after (machine .arm6 .usr32 0#4 [(1, 0x80000001#32)] []) 0xE1B000E1#32 (gives 0 0xC0000000#32 10#4) = true ∧
    after (machine .arm6 .usr32 2#4 [(1, 0x80000001#32)] []) 0xE1B00061#32 (gives 0 0xC0000000#32 10#4) = true := by decide

theorem test_v2_register_shifts :
    after (machine .arm6 .usr32 0#4 [(1, 0x80000001#32), (5, 0x20#32)] []) 0xE1B00511#32 (gives 0 0#32 6#4) = true ∧
    after (machine .arm6 .usr32 0#4 [(1, 0x80000001#32), (6, 0x21#32)] []) 0xE1B00631#32 (gives 0 0#32 4#4) = true ∧
    after (machine .arm6 .usr32 0#4 [(1, 0x80000001#32), (6, 0x21#32)] []) 0xE1B00671#32 (gives 0 0xC0000000#32 10#4) = true ∧
    after (machine .arm6 .usr32 2#4 [(1, 0x80000001#32), (7, 0x100#32)] []) 0xE1B00711#32
        (gives 0 0x80000001#32 10#4) = true ∧
    after (machine .arm6 .usr32 0#4 [(1, 0x80000001#32), (8, 0x120#32)] []) 0xE1B00851#32
        (gives 0 0xFFFFFFFF#32 10#4) = true := by decide

theorem test_v3_immediates :
    after (machine .arm6 .usr32 0#4 [] []) 0xE3B002FF#32 (gives 0 0xF000000F#32 10#4) = true ∧
    after (machine .arm6 .usr32 2#4 [] []) 0xE3B00E01#32 (gives 0 0x10#32 0#4) = true ∧
    after (machine .arm6 .usr32 2#4 [] []) 0xE3B000FF#32 (gives 0 0xFF#32 2#4) = true := by decide

theorem test_v4_r15_read :
    after (machine .arm2 .usr26 15#4 [] []) 0xE28F0018#32 (gives 0 0x8020#32 15#4) = true ∧
    after (masked true true (machine .arm3 .svc26 6#4 [] [])) 0xE1A0000F#32 (gives 0 0x6C00800B#32 6#4) = true ∧
    refuses (machine .arm6 .usr32 0#4 [] []) 0xE08F0211#32 .r15WithRegisterShift = true := by decide

theorem test_v4_r15_written :
    after (machine .arm2 .usr26 5#4 [(14, 0xAC009007#32)] []) 0xE1B0F00E#32
        (fun t => nzcv t == 10#4 && t.pc == 0x9004#32 && t.psr.mode == .usr26 && !t.psr.i) = true ∧
    after (masked true false (machine .arm2 .svc26 5#4 [(14, 0xA4009002#32)] [])) 0xE1B0F00E#32
        (fun t => nzcv t == 10#4 && t.pc == 0x9000#32 && t.psr.mode == .irq26 && !t.psr.i && t.psr.f) = true ∧
    after (machine .arm6 .usr32 5#4 [(14, 0x12345679#32)] []) 0xE1A0F00E#32 (fun t => t.pc == 0x12345678#32) = true ∧
    refuses (machine .arm6 .usr32 0#4 [] []) 0xE1B0F00E#32 .statusRestoreInUser32 = true := by decide

theorem test_v5_p_forms :
    after (masked true true (machine .arm3 .svc26 0#4 [] [])) 0xE33FF383#32
        (fun t => t.psr.mode == .irq26 && t.psr.i && t.psr.f && t.hazard && t.pc == 0x8004#32) = true ∧
    after (machine .arm3 .usr26 6#4 [] []) 0xE33FF003#32
        (fun t => nzcv t == 0#4 && t.psr.mode == .usr26 && !t.hazard) = true ∧
    after (machine .arm2 .svc26 0#4 [(1, 0x8FFFFFFF#32)] []) 0xE371F001#32
        (fun t => nzcv t == 9#4 && t.psr.mode == .usr26) = true ∧
    refuses (machine .arm6 .svc32 0#4 [] []) 0xE33FF000#32 .pFormIn32BitMode = true := by decide

theorem test_v6_branches :
    after (machine .arm3 .svc26 4#4 [] []) 0xEB0003FE#32 (fun t => t.reg 14 == 0x40008007#32 && t.pc == 0x9000#32) = true ∧
    after { machine .arm3 .usr26 0#4 [] [] with pc := 0x03FFFFF0#32 } 0xEA7FFFFF#32 (fun t => t.pc == 0x01FFFFF4#32) = true ∧
    after { machine .arm6 .usr32 0#4 [] [] with pc := 0xFFFFFFF8#32 } 0xEA000000#32 (fun t => t.pc == 0#32) = true ∧
    after { machine .arm3 .usr26 0#4 [] [] with pc := 0x03FFFFFC#32 } 0xEB00003F#32
        (fun t => t.reg 14 == 0#32 && t.pc == 0x100#32) = true := by decide

theorem test_v7_multiply :
    after (machine .arm6 .usr32 3#4 [(1, 0xFFFFFFFF#32), (2, 2#32)] []) 0xE0100291#32
        (fun t => t.reg 0 == 0xFFFFFFFE#32 && t.psr.n && !t.psr.z && t.psr.v) = true ∧
    after (machine .arm6 .usr32 0#4 [(1, 0x12345678#32), (2, 0x9ABCDEF0#32)] []) 0xE0000291#32
        (gives 0 0x242D2080#32 0#4) = true ∧
    after (machine .arm6 .usr32 0#4 [(0, 5#32), (1, 3#32), (2, 4#32)] []) 0xE0200291#32 (gives 0 0x11#32 0#4) = true ∧
    refuses (machine .arm6 .usr32 0#4 [] []) 0xE0010291#32 .mulRdEqRm = true := by decide

theorem test_v8_long_multiply :
    after (machine .arm7dm .usr32 0#4 [(2, 0xFFFFFFFF#32), (3, 0xFFFFFFFF#32)] []) 0xE0810392#32
        (fun t => t.reg 0 == 1#32 && t.reg 1 == 0xFFFFFFFE#32) = true ∧
    after (machine .arm7dm .usr32 4#4 [(2, 0xFFFFFFFE#32), (3, 3#32)] []) 0xE0D10392#32
        (fun t => t.reg 0 == 0xFFFFFFFA#32 && t.reg 1 == 0xFFFFFFFF#32 && t.psr.n && !t.psr.z) = true ∧
    after (machine .arm7dm .usr32 0#4 [(0, 0xFFFFFFFF#32), (2, 2#32), (3, 3#32)] []) 0xE0A10392#32
        (fun t => t.reg 0 == 5#32 && t.reg 1 == 1#32) = true ∧
    after (machine .arm7dm .usr32 0#4 [(0, 10#32), (2, 0xFFFFFFFF#32), (3, 0x14#32)] []) 0xE0E10392#32
        (fun t => t.reg 0 == 0xFFFFFFF6#32 && t.reg 1 == 0xFFFFFFFF#32) = true := by decide

/-- The words of memory image M1 (95_test_vectors, conventions). -/
def imageM1 : List (Nat × Word) := [(0x8FFC, 0xAABBCCDD#32), (0x9000, 0x11223344#32), (0x9004, 0x55667788#32)]

theorem test_v9_loads :
    after (machine .arm6 .usr32 0#4 [(1, 0x9000#32), (2, 8#32)] imageM1) 0xE73100A2#32
        (fun t => t.reg 0 == 0xAABBCCDD#32 && t.reg 1 == 0x8FFC#32) = true ∧
    after (machine .arm6 .usr32 0#4 [(1, 0x9000#32)] imageM1) 0xE5D10001#32 (gives 0 0x33#32 0#4) = true ∧
    after (machine .arm6 .usr32 0#4 [(1, 0x9002#32)] imageM1) 0xE4F10001#32
        (fun t => t.reg 0 == 0x22#32 && t.reg 1 == 0x9003#32) = true ∧
    after (machine .arm3 .svc26 5#4 [(1, 0x9000#32)] [(0x9000, 0xFC00A003#32)]) 0xE591F000#32
        (fun t => t.pc == 0xA000#32 && nzcv t == 5#4 && t.psr.mode == .svc26) = true ∧
    refuses (machine .arm6 .usr32 0#4 [(1, 0x9000#32)] imageM1) 0xE5910001#32 .unalignedAccess = true := by decide

theorem test_v9_stores :
    after (machine .arm6 .usr32 0#4 [(0, 0xCAFEBABE#32), (1, 0x9000#32)] imageM1) 0xE5210004#32
        (fun t => t.wordAt 0x8FFC#32 == 0xCAFEBABE#32 && t.wordAt 0x9000#32 == 0x11223344#32 && t.reg 1 == 0x8FFC#32) = true ∧
    after (machine .arm6 .usr32 0#4 [(0, 0xCAFEBABE#32), (1, 0x9000#32)] imageM1) 0xE5C10001#32
        (fun t => t.wordAt 0x9000#32 == 0x1122BE44#32) = true ∧
    after (machine .arm3 .svc26 0#4 [(0, 0x5A#32), (1, 0x9002#32)] imageM1) 0xE4E10001#32
        (fun t => t.wordAt 0x9000#32 == 0x115A3344#32 && t.reg 1 == 0x9003#32) = true := by decide

/-- The words of memory image M2 (95_test_vectors, conventions). -/
def imageM2 : List (Nat × Word) :=
  [(0x8FF0, 0x10#32), (0x8FF4, 0x11#32), (0x8FF8, 0x12#32), (0x8FFC, 0x13#32), (0x9000, 0x14#32), (0x9004, 0x15#32),
   (0x9008, 0x16#32), (0x900C, 0x17#32)]

theorem test_v10_block_loads :
    after (machine .arm6 .usr32 0#4 [(13, 0x9000#32)] imageM2) 0xE9BD000E#32
        (fun t => t.reg 1 == 0x15#32 && t.reg 3 == 0x17#32 && t.reg 13 == 0x900C#32) = true ∧
    after (machine .arm6 .usr32 0#4 [(13, 0x9000#32)] imageM2) 0xE83D000E#32
        (fun t => t.reg 1 == 0x12#32 && t.reg 3 == 0x14#32 && t.reg 13 == 0x8FF4#32) = true ∧
    after (masked true false (machine .arm3 .svc26 5#4 [(13, 0x8FF8#32)] [(0x8FF8, 0x44#32), (0x8FFC, 0xA0008010#32)]))
        0xE8FD8010#32
        (fun t => t.reg 4 == 0x44#32 && nzcv t == 10#4 && t.pc == 0x8010#32 && t.psr.mode == .usr26 && !t.psr.i
          && t.regs.read (.svc 0) == 0x9000#32) = true ∧
    after (masked true false (machine .arm3 .irq26 0#4 [(0, 0x8FF0#32), (13, 0x9000#32)] imageM2)) 0xE8D06000#32
        (fun t => t.reg 13 == 0x9000#32 && t.userReg 13 == 0x10#32 && t.userReg 14 == 0x11#32 && t.hazard) = true := by decide

theorem test_v10_block_stores :
    after (machine .arm6 .usr32 0#4 [(1, 0xA1#32), (2, 0xA2#32), (3, 0xA3#32), (13, 0x9000#32)] []) 0xE92D000E#32
        (fun t => t.wordAt 0x8FF4#32 == 0xA1#32 && t.wordAt 0x8FFC#32 == 0xA3#32 && t.reg 13 == 0x8FF4#32) = true ∧
    after (machine .arm6 .usr32 0#4 [(1, 0xA1#32), (2, 0xA2#32), (3, 0xA3#32), (13, 0x9000#32)] []) 0xE82D000E#32
        (fun t => t.wordAt 0x8FF8#32 == 0xA1#32 && t.wordAt 0x9000#32 == 0xA3#32 && t.reg 13 == 0x8FF4#32) = true ∧
    refuses (machine .arm6 .usr32 0#4 [(0, 0x8FF0#32)] []) 0xE8A00003#32 .baseInListWriteBack = true := by decide

theorem test_v11_traps :
    after (masked true false (machine .arm6 .irq32 1#4 [] [])) 0xEF000000#32
        (fun t => t.pc == 8#32 && t.psr.mode == .svc32 && t.regs.read (.svc 1) == 0x8004#32
          && t.spsrs.svc.word 0#32 == 0x10000092#32) = true ∧
    after (masked false true (machine .arm2 .svc26 8#4 [] [])) 0xEFFFFFFF#32
        (fun t => t.pc == 8#32 && t.regs.read (.svc 1) == 0x84008007#32 && t.psr.i && t.psr.f) = true ∧
    after (not32 (machine .arm6 .usr26 4#4 [] [])) 0xE6000010#32
        (fun t => t.pc == 4#32 && t.psr.mode == .svc26 && t.regs.read (.svc 1) == 0x40008004#32) = true ∧
    after (machine .arm2 .usr26 0#4 [] []) 0xE1020091#32
        (fun t => t.pc == 4#32 && t.regs.read (.svc 1) == 0x8004#32) = true := by decide

theorem test_v11_interrupts :
    nextOf (step { masked true false (machine .arm3 .svc26 8#4 [] []) with inputs := [⟨false, true, false⟩] })
        (fun t => t.pc == 0x1C#32 && t.psr.mode == .fiq26 && t.psr.f && t.regs.read (.fiq 6) == 0x88008007#32) = true ∧
    nextOf (step { machine .arm6 .usr32 0#4 [] [] with inputs := [⟨false, true, true⟩] })
        (fun t => t.pc == 0x1C#32 && t.psr.mode == .fiq32 && t.spsrs.fiq.word 0#32 == 0x10#32) = true := by decide

/-- A rule that aborts every user-mode read of the word at 0x9000, and one for the fetch at 0x8000. -/
def abortRule (a : Nat) : AbortRule where
  region := { first := a, last := a + 3 }
  onByte := true
  onWord := true
  onRead := true
  onWrite := true
  onFetch := true
  onUser := true
  onPrivileged := false

/-- The machine with the abort rule. -/
def aborting (a : Nat) (s : State) : State := { s with cfg := { s.cfg with aborts := [abortRule a] } }

theorem test_v11_aborts :
    after (aborting 0x9000 (machine .arm6 .usr32 6#4 [(1, 0x9000#32)] [])) 0xE5910000#32
        (fun t => t.pc == 0x10#32 && t.psr.mode == .abt32 && t.regs.read (.abt 1) == 0x8008#32) = true ∧
    nextOf (step (aborting 0x8000 (machine .arm2 .usr26 0#4 [] [])))
        (fun t => t.pc == 0xC#32 && t.regs.read (.svc 1) == 0x8004#32) = true ∧
    after (machine .arm3 .usr26 0#4 [(1, 0x04000000#32)] []) 0xE5910000#32
        (fun t => t.pc == 0x14#32 && t.regs.read (.svc 1) == 0x8008#32) = true ∧
    after (aborting 0x9000 (machine .arm6 .svc32 0#4 [(1, 0x9000#32)] [])) 0xE4B10000#32
        (fun t => t.pc == 0x10#32) = true := by decide

theorem test_v12_absent_coprocessor :
    after (machine .arm3 .usr26 10#4 [] []) 0xEE19016F#32
        (fun t => t.pc == 4#32 && t.regs.read (.svc 1) == 0xA0008004#32) = true ∧
    after (machine .arm6 .usr32 0#4 [(3, 0x9000#32)] []) 0xEC032104#32
        (fun t => t.pc == 4#32 && t.psr.mode == .und32 && t.reg 3 == 0x9000#32) = true ∧
    refuses (machine .arm6 .usr32 0#4 [] []) 0xEE01FF10#32 .mcrWithR15 = true := by decide

theorem test_v13_swap :
    after (machine .arm6 .usr32 0#4 [(0, 0xCAFEBABE#32), (2, 0x9000#32)] [(0x9000, 0x11223344#32)]) 0xE1020090#32
        (fun t => t.reg 0 == 0x11223344#32 && t.wordAt 0x9000#32 == 0xCAFEBABE#32) = true ∧
    after (machine .arm6 .usr32 0#4 [(1, 0xCAFEBABE#32), (2, 0x9001#32)] [(0x9000, 0x11223344#32)]) 0xE1420091#32
        (fun t => t.reg 0 == 0x33#32 && t.wordAt 0x9000#32 == 0x1122BE44#32) = true := by decide

/-- Whatever the free bits of MRS are, the bits of the mask 0xF00000DF are the PSR's. -/
theorem test_v14_mrs_word (x : Word) :
    (SavedPsr.word { n := false, z := true, c := false, v := false, i := true, f := false, m := 3#5 } x)
      &&& 0xF00000DF#32 = 0x40000083#32 := by
  ext i hi
  simp only [BitVec.getElem_and, SavedPsr.word, BitVec.getElem_append]
  interval_cases i <;> simp

theorem test_v14_mrs :
    after (masked true false (machine .arm6 .svc26 4#4 [] [])) 0xE10F0000#32
        (fun t => t.pc == 0x8004#32 && nzcv t == 4#4 && t.psr.mode == .svc26) = true ∧
    refuses (machine .arm6 .usr32 0#4 [] []) 0xE10FF000#32 .mrsRdR15 = true ∧
    refuses (machine .arm6 .usr32 0#4 [] []) 0xE14F0000#32 .spsrInUserMode = true := by decide

theorem test_v14_msr :
    after (machine .arm6 .svc32 0#4 [(1, 0xA00000D2#32)] []) 0xE129F001#32
        (fun t => nzcv t == 10#4 && t.psr.mode == .irq32 && t.psr.i && t.psr.f && t.pc == 0x8004#32) = true ∧
    after (machine .arm6 .usr32 0#4 [(1, 0xA00000D3#32)] []) 0xE129F001#32
        (fun t => nzcv t == 10#4 && t.psr.mode == .usr32 && !t.psr.i) = true ∧
    after (machine .arm6 .svc32 0#4 [(1, 0xFFFFFFFF#32)] []) 0xE169F001#32
        (fun t => t.spsrs.svc.word 0#32 == 0xF00000DF#32) = true ∧
    faultsWith (step ((machine .arm6 .svc32 0#4 [] []).placeWord 0xE321F007#32)) .undefinedMode = true := by decide

theorem test_v15_boundaries :
    decode .arm2 0xE1200090#32 = .ok (.undefinedArm2 .al 0x2000#16 0#2 0#4) ∧
    decode .arm3 0xE1200090#32 = .error .unallocatedExtension ∧
    decode .arm6 0xE120F010#32 = .error .unallocatedPsrSpace ∧
    decode .arm6 0xE124F001#32 = .error .reservedPsrField ∧
    decode .arm6 0xE0C10392#32 = .error .unallocatedExtension ∧
    decode .arm3 0xE10F0000#32 = .error .unallocatedPsrSpace := by decide

theorem test_v16_hazards :
    refuses { machine .arm3 .irq26 0#4 [] [] with hazard := true } 0xE3A0DA07#32 .bankedRegisterAfterModeChange = true ∧
    refuses { machine .arm3 .irq26 0#4 [] [] with hazard := true } 0xEB0003FD#32 .bankedRegisterAfterModeChange = true ∧
    after { machine .arm3 .irq26 0#4 [] [] with hazard := true } 0xE3A00000#32 (fun t => !t.hazard) = true ∧
    after (machine .arm6 .svc32 0#4 [] []) 0xE321F0D2#32 (fun t => t.psr.mode == .irq32 && !t.hazard) = true ∧
    refusedWith (step { machine .arm6 .usr32 0#4 [] [] with stored := [0x8000] }) .fetchOfModifiedCode = true := by decide

theorem test_v16_wrap :
    after { machine .arm3 .usr26 10#4 [] [] with pc := 0x03FFFFFC#32 } 0xE3A00000#32
        (fun t => t.pc == 0#32 && nzcv t == 10#4) = true ∧
    after { machine .arm6 .usr32 0#4 [] [] with pc := 0x03FFFFFC#32 } 0xE3A00000#32 (fun t => t.pc == 0x04000000#32) = true := by
  decide


/-! ## A state and operands that meet the hypotheses of each statement, clause by clause

Where the values involved are not free, the conclusion is evaluated there too. -/

/-- Two answers are the same. -/
def agree : Answer → Answer → Bool
  | .next t, .next u => decide (t = u)
  | .fault f, .fault g => decide (f = g)
  | .refused q, .refused r => decide (q = r)
  | _, _ => false

/-- The 32-bit part in SVC mode, in user mode, and in a 26-bit SVC mode; the 26-bit part in user and in SVC mode. -/
def svc6 : State := machine .arm6 .svc32 2#4 [(1, 0x9000#32), (2, 4#32), (3, 0x80000000#32)] imageM1

/-- See `svc6`. -/
def usr6 : State := machine .arm6 .usr32 2#4 [(1, 0x9000#32), (2, 4#32), (3, 0x80000000#32)] imageM1

/-- See `svc6`. -/
def svc6in26 : State := machine .arm6 .svc26 2#4 [(1, 0x9000#32), (2, 4#32), (3, 0x80000000#32)] imageM1

/-- See `svc6`. -/
def usr2 : State := machine .arm2 .usr26 2#4 [(1, 0x9000#32), (2, 4#32), (3, 0x80000000#32)] imageM1

/-- See `svc6`. -/
def svc2 : State := machine .arm2 .svc26 2#4 [(1, 0x9000#32), (2, 4#32), (3, 0x80000000#32)] imageM1

/-- The machine with `pc` at an address. -/
def atPc (a : Word) (s : State) : State := { s with pc := a }

/-- The machine with one event's inputs coming. -/
def withInput (reset fiq irq : Bool) (s : State) : State := { s with inputs := [⟨reset, fiq, irq⟩, ⟨false, true, false⟩] }

/-- The machine without memory at the word `a`. -/
def withHole (a : Nat) (s : State) : State := { s with cfg := { s.cfg with holes := [⟨a, a + 3⟩] } }

/-- The inputs of this boundary taken off. -/
def takenOff (s : State) : State := { s with inputs := s.inputs.tail }

theorem test_meets_DecodeInvertsEncode :
    WellFormed .arm7dm (.umlal .nv true 15#4 15#4 15#4 15#4) = true ∧
    decode .arm7dm (encode (.umlal .nv true 15#4 15#4 15#4 15#4)) = .ok (.umlal .nv true 15#4 15#4 15#4 15#4) ∧
    WellFormed .arm2 (.undefinedArm2 .eq 0xFFFF#16 3#2 15#4) = true ∧
    WellFormed .arm6 (.msrImm .al true .flg 15#4 0xFF#8) = true ∧
    WellFormed .arm3 (.ldrReg .al false false false 0#4 0#4 31#5 .ror 15#4) = true := by decide

theorem test_meets_EncodeInvertsDecode :
    decode .arm6 0xFFFFFFFF#32 = .ok (.swi .nv 0xFFFFFF#24) ∧ WellFormed .arm6 (.swi .nv 0xFFFFFF#24) = true ∧
    decode .arm6 0#32 = .ok (.andReg .eq false 0#4 0#4 0#5 .lsl 0#4) := by decide

theorem test_meets_UndefinedWordsDecode :
    (0x06000010#32 &&& 0x0E000010#32 = 0x06000010#32 ∧ decode .arm7dm 0x06000010#32 = .ok (.undefined .eq 0#20 0#4)) ∧
    (0xF7FFFFFF#32 &&& 0x0E000010#32 = 0x06000010#32 ∧
      decode .arm2 0xF7FFFFFF#32 = .ok (.undefined .nv 0xFFFFF#20 15#4)) ∧
    (0xF1FFFFFF#32 &&& 0x0F000090#32 = 0x01000090#32 ∧
      decode .arm2 0xF1FFFFFF#32 = .ok (.undefinedArm2 .nv 0xFFFF#16 3#2 15#4) ∧
      decode .arm3 0xF1FFFFFF#32 = .error .unallocatedExtension) ∧
    (0x01000090#32 &&& 0x0F000090#32 = 0x01000090#32 ∧ decode .arm3 0x01000090#32 = .ok (.swp .eq 0#4 0#4 0#4)) ∧
    (condPassed (Instr.undefined .al 0#20 0#4).cond svc6.psr = true ∧
      agree (exec (.undefined .al 0#20 0#4) svc6) (takeException .undefinedInstruction svc6) = true) ∧
    (condPassed (Instr.undefinedArm2 .al 0#16 0#2 0#4).cond usr2.psr = true ∧
      agree (exec (.undefinedArm2 .al 0#16 0#2 0#4) usr2) (takeException .undefinedInstruction usr2) = true) := by decide

theorem test_meets_StepRunsDecodedInstruction :
    let s := withInput false false false (usr2.placeWord 0xE2810001#32)
    s.undisturbed = true ∧ s.fetches 0xE2810001#32 ∧
    decode s.cfg.variant 0xE2810001#32 = .ok (.addImm .al false 1#4 0#4 0#4 1#8) ∧
    agree (step s) (exec (.addImm .al false 1#4 0#4 0#4 1#8) (takenOff s)) = true := by
  unfold State.fetches; decide

theorem test_meets_FailedConditionStep :
    let s := withInput false false false (usr2.placeWord 0x01200090#32)
    (s.undisturbed = true ∧ s.fetches 0x01200090#32 ∧
      condPassed (Cond.ofBits ((0x01200090#32 : Word).extractLsb' 28 4)) s.psr = false ∧
      agree (step s) (.next { s with inputs := [⟨false, true, false⟩], pc := 0x8004#32, hazard := false }) = true) ∧
    (let t := atPc 0xFFFFFFFC#32 (svc6.placeWord 0#32)
     t.undisturbed = true ∧ t.fetches 0#32 ∧ condPassed (Cond.ofBits ((0#32 : Word).extractLsb' 28 4)) t.psr = false ∧
       agree (step t) (.next { t with pc := 0#32 }) = true) := by
  unfold State.fetches; decide

theorem test_meets_FailedConditionOfEveryInstruction :
    condPassed (Instr.swi .nv 0#24).cond usr6.psr = false ∧
    agree (exec (.swi .nv 0#24) usr6) (.next { usr6 with pc := 0x8004#32 }) = true ∧
    condPassed (Instr.cdp .eq 0#4 0#4 0#4 0#4 0#3 0#4).cond usr6.psr = false ∧
    agree (exec (.cdp .eq 0#4 0#4 0#4 0#4 0#3 0#4) usr6) (.next { usr6 with pc := 0x8004#32 }) = true := by decide

theorem test_meets_ComparisonConditions :
    usr6.ready .al (3#4 :: (Op2.reg 0#5 .lsl 2#4).regs) = true ∧ shiftsWithR15 (.reg 0#5 .lsl 2#4) [3#4] = false ∧
    nextOf (exec (testInstr .cmp .al 3#4 0#4 (.reg 0#5 .lsl 2#4)) usr6)
      (fun t => condPassed .lt t.psr && condPassed .hi t.psr && condPassed .ne t.psr) = true ∧
    usr6.ready .cs (3#4 :: (Op2.regShift 2#4 .lsr 3#4).regs) = true ∧
    shiftsWithR15 (.regShift 2#4 .lsr 3#4) [3#4] = false ∧
    usr6.ready .al (15#4 :: (Op2.imm 0#4 0#8).regs) = true ∧ shiftsWithR15 (.imm 0#4 0#8) [15#4] = false := by decide

theorem test_meets_InvariantKeptByStep :
    State.reset.Inv = true ∧ nextOf (step State.reset) State.Inv = true ∧
    (atPc 0x03FFFFFC#32 usr2).Inv = true ∧ nextOf (step (atPc 0x03FFFFFC#32 usr2)) State.Inv = true ∧
    (svc6.placeWord 0xE5810000#32).Inv = true ∧ nextOf (step (svc6.placeWord 0xE5810000#32)) State.Inv = true := by decide

theorem test_meets_ConfigurationNeverChanges :
    nextOf (step svc6) (fun t => t.cfg == svc6.cfg) = true := by decide

theorem test_meets_UserModeLeftOnlyByException :
    (usr6.privileged = false ∧ nextOf (step usr6) (fun t => t.psr.mode == .usr32 && !t.psr.i) = true) ∧
    ((usr2.placeWord 0xEF000000#32).privileged = false ∧
      nextOf (step (usr2.placeWord 0xEF000000#32)) (fun t => t.privileged && t.psr.i && t.pc == 8#32) = true) := by decide

theorem test_meets_OldPartsKeepAbtAndUnd :
    svc2.cfg.variant.hasPsr32 = false ∧ svc2.mode26 = true ∧ (svc2.inputs.headD quiet).reset = false ∧
    nextOf (step (svc2.placeWord 0xE6000010#32))
      (fun t => t.mode26 && t.spsrs == svc2.spsrs && t.regs.abt == svc2.regs.abt) = true := by decide

theorem test_meets_InputPriority :
    (((withInput true true true usr6).inputs.headD quiet).reset = true ∧
      nextOf (step (withInput true true true usr6)) (fun t => t.pc == 0#32) = true) ∧
    (((withInput false true true usr6).inputs.headD quiet).fiq = true ∧ usr6.psr.f = false ∧
      agree (step (withInput false true true usr6)) (takeException .fiq (takenOff (withInput false true true usr6))) = true) ∧
    (let s := withInput false true true (masked false true usr6)
     ((s.inputs.headD quiet).fiq = true → s.psr.f = true) ∧ (s.inputs.headD quiet).irq = true ∧ s.psr.i = false ∧
       agree (step s) (takeException .irq (takenOff s)) = true) ∧
    (let s := withInput false true true (masked true true usr6)
     ((s.inputs.headD quiet).fiq = true → s.psr.f = true) ∧ ((s.inputs.headD quiet).irq = true → s.psr.i = true) ∧
       agree (step s) (runInstruction (takenOff s)) = true) := by decide

theorem test_meets_ResetEventState :
    ((withInput true false false usr6).inputs.headD quiet).reset = true ∧
    nextOf (step (withInput true false false usr6)) (fun t => t.psr.mode == .svc32 && t.psr.i && t.psr.f && t.pc == 0#32) = true ∧
    ((withInput true true true usr2).inputs.headD quiet).reset = true ∧
    nextOf (step (withInput true true true usr2)) (fun t => t.psr.mode == .svc26 && t.mem == usr2.mem) = true := by decide

theorem test_meets_FetchStops :
    (let s := { usr6 with cfg := { usr6.cfg with endAddr := some 0x8000#32 } }
     s.undisturbed = true ∧ s.cfg.endAddr = some s.pc ∧ faultsWith (step s) .endOfRun = true) ∧
    (let s := aborting 0x8000 usr6
     s.undisturbed = true ∧ s.cfg.endAddr ≠ some s.pc ∧
       s.cfg.aborts.any (fun r => r.hits s.pc.toNat .word .fetch s.privileged) = true ∧
       agree (step s) (takeException .prefetchAbort (takenOff s)) = true) ∧
    (let s := withHole 0x8000 usr6
     s.undisturbed = true ∧ s.cfg.endAddr ≠ some s.pc ∧
       s.cfg.aborts.any (fun r => r.hits s.pc.toNat .word .fetch s.privileged) = false ∧
       s.cfg.holes.any (fun r => r.holds s.pc.toNat) = true ∧ faultsWith (step s) .unbackedAddress = true) ∧
    (let s := { usr6 with stored := [0x8000] }
     s.undisturbed = true ∧ s.cfg.endAddr ≠ some s.pc ∧ s.access .word .fetch s.privileged s.pc = none ∧
       s.pc.toNat ∈ s.stored ∧ refusedWith (step s) .fetchOfModifiedCode = true) ∧
    (let s := usr6.placeWord 0xE1200090#32
     s.undisturbed = true ∧ s.fetches 0xE1200090#32 ∧
       condPassed (Cond.ofBits ((0xE1200090#32 : Word).extractLsb' 28 4)) s.psr = true ∧
       decode s.cfg.variant 0xE1200090#32 = .error .unallocatedExtension ∧
       refusedWith (step s) (.unallocated .unallocatedExtension) = true) := by
  unfold State.fetches; decide

theorem test_meets_EntryInto32BitModes :
    svc6.cfg.entry32 = true ∧
    nextOf (takeException .fiq (atPc 0xFFFFFFFC#32 svc6))
      (fun t => t.psr.mode == .fiq32 && t.reg 14 == 0#32 && t.psr.f && t.pc == 0x1C#32 && t.spsrs.fiq == svc6.psr.save) = true := by
  decide

theorem test_meets_EntryInto26BitModes :
    ((not32 usr6).cfg.entry32 = false ∧ (not32 usr6).mode26 = false ∧
      refusedWith (takeException .irq (not32 usr6)) .exceptionFrom32BitMode = true) ∧
    (usr2.cfg.entry32 = false ∧ usr2.mode26 = true ∧
      nextOf (takeException .dataAbort (atPc 0x03FFFFFC#32 usr2)) (fun t => t.reg 14 == 0x20000004#32 && t.pc == 0x10#32) = true) := by
  decide

theorem test_meets_SwiThenReturn :
    let runs (s : State) : Bool := nextOf (exec (.swi .al 0#24) s) fun t =>
      nextOf (exec (.movReg .al true 0#4 15#4 0#5 .lsl 14#4) t) fun u => u.psr == s.psr && u.pc == s.successor && t.privileged
    let admits (s : State) : Prop := condPassed .al s.psr = true ∧ s.pcFits = true ∧
      (s.cfg.entry32 = true → s.mode26 = true → s.pc.toNat + 4 < 2 ^ 26) ∧ (s.cfg.entry32 = false → s.mode26 = true)
    (admits (atPc 0xFFFFFFFC#32 usr6) ∧ runs (atPc 0xFFFFFFFC#32 usr6) = true) ∧
    (admits (atPc 0x03FFFFF8#32 svc6in26) ∧ runs (atPc 0x03FFFFF8#32 svc6in26) = true) ∧
    (admits (atPc 0x03FFFFFC#32 usr2) ∧ runs (atPc 0x03FFFFFC#32 usr2) = true) ∧
    (admits (not32 svc6in26) ∧ nextOf (exec (.swi .al 0#24) (not32 svc6in26)) (fun t => t.pc == 8#32) = true) := by
  decide

theorem test_meets_SoftwareInterruptEntry :
    condPassed .cs usr6.psr = true ∧ usr6.cfg.entry32 = true ∧
    nextOf (exec (.swi .cs 0xFFFFFF#24) usr6) (fun t => t.regs.read (.svc 1) == 0x8004#32 && t.pc == 8#32) = true ∧
    condPassed .al usr2.psr = true ∧ usr2.cfg.entry32 = false ∧ usr2.mode26 = true ∧
    nextOf (exec (.swi .al 0#24) usr2) (fun t => t.regs.read (.svc 1) == 0x20008004#32 && t.pc == 8#32) = true ∧
    condPassed .al (not32 usr6).psr = true ∧ (not32 usr6).cfg.entry32 = false ∧ (not32 usr6).mode26 = false ∧
    refusedWith (exec (.swi .al 0#24) (not32 usr6)) .exceptionFrom32BitMode = true := by decide

theorem test_meets_UndefinedInstructionEntry :
    condPassed (Instr.undefined .al 0#20 0#4).cond svc6.psr = true ∧ svc6.cfg.entry32 = true ∧
    nextOf (exec (.undefined .al 0#20 0#4) svc6) (fun t => t.regs.read (.und 1) == 0x8004#32 && t.psr.mode == .und32) = true ∧
    condPassed (Instr.undefinedArm2 .al 0#16 0#2 0#4).cond usr2.psr = true ∧ usr2.cfg.entry32 = false ∧ usr2.mode26 = true ∧
    nextOf (exec (.undefinedArm2 .al 0#16 0#2 0#4) usr2) (fun t => t.regs.read (.svc 1) == 0x20008004#32 && t.pc == 4#32) = true ∧
    (not32 usr6).cfg.entry32 = false ∧ (not32 usr6).mode26 = false ∧
    refusedWith (exec (.undefined .al 0#20 0#4) (not32 usr6)) .exceptionFrom32BitMode = true := by decide

theorem test_meets_DataProcessingResult :
    (usr6.ready .al (0#4 :: rnRead .sbc 1#4 ++ (Op2.reg 0#5 .lsr 3#4).regs) = true ∧
      shiftsWithR15 (.reg 0#5 .lsr 3#4) (rnRead .sbc 1#4) = false ∧
      nextOf (exec (dpInstr .sbc .al true 1#4 0#4 (.reg 0#5 .lsr 3#4)) usr6) (gives 0 0x9000#32 2#4) = true) ∧
    (usr6.ready .al (1#4 :: rnRead .mov 15#4 ++ (Op2.regShift 2#4 .asr 3#4).regs) = true ∧
      shiftsWithR15 (.regShift 2#4 .asr 3#4) (rnRead .mov 15#4) = false ∧
      nextOf (exec (dpInstr .mov .al true 15#4 1#4 (.regShift 2#4 .asr 3#4)) usr6) (gives 1 0xF8000000#32 8#4) = true) ∧
    (usr2.ready .al (14#4 :: rnRead .rsc 15#4 ++ (Op2.imm 2#4 8#8).regs) = true ∧
      shiftsWithR15 (.imm 2#4 8#8) (rnRead .rsc 15#4) = false ∧
      nextOf (exec (dpInstr .rsc .al false 15#4 14#4 (.imm 2#4 8#8)) usr2) (gives 14 0x7FFF7FF8#32 2#4) = true) := by decide

theorem test_meets_TestResult :
    (usr6.ready .al (1#4 :: (Op2.imm 0#4 0#8).regs) = true ∧ shiftsWithR15 (.imm 0#4 0#8) [1#4] = false ∧
      nextOf (exec (testInstr .teq .al 1#4 15#4 (.imm 0#4 0#8)) usr6) (fun t => nzcv t == 2#4 && t.regs == usr6.regs) = true) ∧
    (usr6.ready .al (3#4 :: (Op2.reg 0#5 .lsl 3#4).regs) = true ∧ shiftsWithR15 (.reg 0#5 .lsl 3#4) [3#4] = false ∧
      nextOf (exec (testInstr .cmn .al 3#4 0#4 (.reg 0#5 .lsl 3#4)) usr6) (fun t => nzcv t == 7#4) = true) := by decide

theorem test_meets_PFormWritesPsr :
    (svc2.ready .al (1#4 :: (Op2.imm 1#4 3#8).regs) = true ∧ svc2.mode26 = true ∧ shiftsWithR15 (.imm 1#4 3#8) [1#4] = false ∧
      nextOf (exec (testPInstr .teq .al 1#4 (.imm 1#4 3#8)) svc2)
        (fun t => t.psr.n && t.psr.z && !t.psr.c && t.psr.mode == .usr26 && t.hazard) = true) ∧
    (usr2.ready .al (3#4 :: (Op2.reg 0#5 .lsl 2#4).regs) = true ∧ usr2.mode26 = true ∧
      shiftsWithR15 (.reg 0#5 .lsl 2#4) [3#4] = false ∧
      nextOf (exec (testPInstr .cmn .al 3#4 (.reg 0#5 .lsl 2#4)) usr2)
        (fun t => nzcv t == 8#4 && t.psr.mode == .usr26 && !t.hazard) = true) := by decide

theorem test_meets_PFormRefusedIn32BitModes :
    svc6.ready .al (15#4 :: (Op2.regShift 15#4 .lsl 15#4).regs) = true ∧ svc6.mode26 = false ∧
    refusedWith (exec (testPInstr .tst .al 15#4 (.regShift 15#4 .lsl 15#4)) svc6) .pFormIn32BitMode = true := by decide

theorem test_meets_WriteToR15In26BitModes :
    (svc2.ready .al (rnRead .orr 1#4 ++ (Op2.imm 2#4 0xA2#8).regs) = true ∧ svc2.mode26 = true ∧
      shiftsWithR15 (.imm 2#4 0xA2#8) (rnRead .orr 1#4) = false ∧
      nextOf (exec (dpInstr .orr .al true 1#4 15#4 (.imm 2#4 0xA2#8)) svc2)
        (fun t => t.pc == 0x9008#32 && nzcv t == 2#4 && t.psr.mode == .irq26) = true) ∧
    (usr2.ready .al (rnRead .mvn 15#4 ++ (Op2.imm 0#4 0#8).regs) = true ∧ usr2.mode26 = true ∧
      nextOf (exec (dpInstr .mvn .al false 15#4 15#4 (.imm 0#4 0#8)) usr2)
        (fun t => t.pc == 0x03FFFFFC#32 && t.psr == usr2.psr) = true ∧
      nextOf (exec (dpInstr .mvn .al true 15#4 15#4 (.imm 0#4 0#8)) usr2)
        (fun t => t.pc == 0x03FFFFFC#32 && nzcv t == 15#4 && t.psr.mode == .usr26 && !t.psr.i) = true) := by decide

/-- SVC mode with a saved PSR of mode number `m`. -/
def saved (m : BitVec 5) : State :=
  { svc6 with spsrs := { svc6.spsrs with svc := { n := true, z := false, c := false, v := false, i := false, f := false, m := m } } }

theorem test_meets_WriteToR15In32BitModes :
    svc6.ready .al (rnRead .mov 0#4 ++ (Op2.reg 0#5 .lsl 3#4).regs) = true ∧ svc6.mode26 = false ∧
    shiftsWithR15 (.reg 0#5 .lsl 3#4) (rnRead .mov 0#4) = false ∧
    nextOf (exec (dpInstr .mov .al false 0#4 15#4 (.reg 0#5 .lsl 3#4)) svc6) (fun t => t.pc == 0x80000000#32) = true ∧
    (usr6.mode26 = false ∧ usr6.privileged = false ∧ usr6.ready .al (rnRead .mov 0#4 ++ (Op2.reg 0#5 .lsl 3#4).regs) = true ∧
      refusedWith (exec (dpInstr .mov .al true 0#4 15#4 (.reg 0#5 .lsl 3#4)) usr6) .statusRestoreInUser32 = true) ∧
    ((saved 31#5).psr.mode.bank = some .svc ∧ Mode.ofBits ((saved 31#5).spsrs.read .svc).m = none ∧
      faultsWith (exec (dpInstr .mov .al true 0#4 15#4 (.reg 0#5 .lsl 3#4)) (saved 31#5)) .undefinedMode = true) ∧
    (Mode.ofBits ((saved 0#5).spsrs.read .svc).m = some .usr26 ∧ Mode.usr26.is26 = true ∧
      refusedWith (exec (dpInstr .mov .al true 0#4 15#4 (.reg 0#5 .lsl 3#4)) (saved 0#5)) .pcOutOf26BitRange = true ∧
      refusedWith (exec (dpInstr .mov .al true 0#4 15#4 (.imm 3#4 1#8)) (saved 0#5)) .pcOutOf26BitRange = true ∧
      nextOf (exec (dpInstr .sub .al true 15#4 15#4 (.imm 0#4 0#8)) (saved 0#5))
        (fun t => t.psr.mode == .usr26 && t.psr.n && t.pc == 0x8008#32) = true) ∧
    (Mode.ofBits ((saved 16#5).spsrs.read .svc).m = some .usr32 ∧
      nextOf (exec (dpInstr .mov .al true 0#4 15#4 (.reg 0#5 .lsl 3#4)) (saved 16#5))
        (fun t => t.psr.mode == .usr32 && t.pc == 0x80000000#32) = true) := by decide

theorem test_meets_R15WithRegisterShiftRefused :
    usr6.ready .al (0#4 :: rnRead .add 15#4 ++ (Op2.regShift 2#4 .lsl 3#4).regs) = true ∧
    shiftsWithR15 (.regShift 2#4 .lsl 3#4) (rnRead .add 15#4) = true ∧
    refusedWith (exec (dpInstr .add .al true 15#4 0#4 (.regShift 2#4 .lsl 3#4)) usr6) .r15WithRegisterShift = true ∧
    shiftsWithR15 (.regShift 15#4 .lsl 3#4) (rnRead .mov 15#4) = true ∧
    refusedWith (exec (dpInstr .mov .al true 15#4 0#4 (.regShift 15#4 .lsl 3#4)) usr6) .r15WithRegisterShift = true ∧
    usr2.ready .al (1#4 :: (Op2.regShift 2#4 .lsl 15#4).regs) = true ∧ shiftsWithR15 (.regShift 2#4 .lsl 15#4) [1#4] = true ∧
    refusedWith (exec (testInstr .cmp .al 1#4 0#4 (.regShift 2#4 .lsl 15#4)) usr2) .r15WithRegisterShift = true ∧
    usr2.mode26 = true ∧ refusedWith (exec (testPInstr .cmp .al 1#4 (.regShift 2#4 .lsl 15#4)) usr2) .r15WithRegisterShift = true := by
  decide

theorem test_meets_ShiftsBitByBit :
    shiftBy .lsl 1#32 31 true = ⟨0x80000000#32, false⟩ ∧ shiftBy .lsl 1#32 32 false = ⟨0#32, true⟩ ∧
    shiftBy .lsl 1#32 33 true = ⟨0#32, false⟩ ∧ shiftBy .lsr 0x80000000#32 32 false = ⟨0#32, true⟩ ∧
    shiftBy .lsr 0x80000000#32 33 true = ⟨0#32, false⟩ ∧ shiftBy .asr 0x80000000#32 255 false = ⟨0xFFFFFFFF#32, true⟩ ∧
    shiftBy .ror 1#32 1 false = ⟨0x80000000#32, true⟩ ∧ shiftBy .ror 0x80000000#32 32 false = ⟨0x80000000#32, true⟩ := by decide

theorem test_meets_ConstantShiftsAndImmediates :
    (31#5 : BitVec 5) ≠ 0#5 ∧ shiftConst .ror 1#32 31#5 false = ⟨2#32, false⟩ ∧
    shiftConst .ror 1#32 0#5 true = ⟨0x80000000#32, true⟩ ∧
    immOperand 15#4 0x81#8 false = ⟨0x204#32, false⟩ ∧ immOperand 0#4 0x81#8 true = ⟨0x81#32, true⟩ := by decide

theorem test_meets_R15Reads :
    (atPc 0xFFFFFFF8#32 usr6).mode26 = false ∧ (atPc 0xFFFFFFF8#32 usr6).reg 15#4 = 0#32 ∧
    (atPc 0x03FFFFFC#32 svc2).mode26 = true ∧ (atPc 0x03FFFFFC#32 svc2).reg 15#4 = 4#32 ∧
    (atPc 0x03FFFFFC#32 svc2).rmValue 15#4 = 0x20000007#32 ∧ svc2.rmValue 14#4 = svc2.reg 14#4 := by decide

theorem test_meets_BranchResult :
    condPassed .al usr6.psr = true ∧ nextOf (exec (.b .al 0x800000#24) usr6) (fun t => t.pc == 0xFE008008#32) = true ∧
    condPassed .cs usr2.psr = true ∧ nextOf (exec (.b .cs 0x800000#24) usr2) (fun t => t.pc == 0x02008008#32) = true := by decide

theorem test_meets_BranchWithLinkResult :
    usr6.ready .al [14#4] = true ∧ usr6.mode26 = false ∧
    nextOf (exec (.bl .al 0xFFFFFE#24) (atPc 0xFFFFFFFC#32 usr6)) (fun t => t.reg 14 == 0#32 && t.pc == 0xFFFFFFFC#32) = true ∧
    usr2.ready .al [14#4] = true ∧ usr2.mode26 = true ∧
    nextOf (exec (.bl .al 0xFFFFFE#24) usr2) (fun t => t.reg 14 == 0x20008004#32 && t.pc == 0x8000#32) = true := by decide

theorem test_meets_MultiplyResult :
    (1#4 : Reg) ≠ 2#4 ∧ svc6.ready .al [1#4, 2#4, 1#4] = true ∧
    nextOf (exec (.mul .al true 1#4 0#4 1#4 2#4) svc6) (fun t => t.reg 1 == 0x24000#32 && !t.psr.n && !t.psr.z) = true ∧
    svc6.ready .al [1#4, 3#4, 2#4, 1#4] = true ∧
    nextOf (exec (.mla .al true 1#4 1#4 2#4 3#4) svc6) (fun t => t.reg 1 == 0x9000#32 && !t.psr.v) = true := by decide

theorem test_meets_LongMultiplyResult :
    (let s := machine .arm7dm .usr32 0#4 [(0, 0xFFFFFFFF#32), (1, 0xFFFFFFFF#32), (2, 0x80000000#32), (3, 0xFFFFFFFF#32)] []
     15#4 ∉ [1#4, 0#4, 2#4, 3#4] ∧ s.ready .al [1#4, 0#4, 2#4, 3#4] = true ∧
       nextOf (exec (.umull .al false 1#4 0#4 2#4 3#4) s) (fun t => t.reg 1 == 0x7FFFFFFF#32 && t.reg 0 == 0x80000000#32) = true ∧
       nextOf (exec (.umlal .al false 1#4 0#4 2#4 3#4) s) (fun t => t.reg 1 == 0x7FFFFFFF#32 && t.reg 0 == 0x7FFFFFFF#32) = true ∧
       nextOf (exec (.smull .al true 1#4 0#4 2#4 3#4) s) (fun t => t.reg 1 == 0#32 && t.reg 0 == 0x80000000#32 && !t.psr.n) = true ∧
       nextOf (exec (.smlal .al true 1#4 0#4 2#4 3#4) s) (fun t => t.reg 1 == 0#32 && t.reg 0 == 0x7FFFFFFF#32) = true) := by
  decide

theorem test_meets_MultiplyRestrictions :
    svc6.ready .al [1#4, 1#4, 2#4] = true ∧ refusedWith (exec (.mul .al true 1#4 0#4 2#4 1#4) svc6) .mulRdEqRm = true ∧
    svc6.ready .al [1#4, 2#4, 15#4] = true ∧ refusedWith (exec (.mul .al true 1#4 0#4 15#4 2#4) svc6) .mulWithR15 = true ∧
    svc6.ready .al [15#4, 15#4, 2#4, 1#4] = true ∧
    refusedWith (exec (.mla .al true 15#4 1#4 2#4 15#4) svc6) .mulRdEqRm = true ∧
    svc6.ready .al [1#4, 2#4, 3#4, 15#4] = true ∧
    refusedWith (exec (.mla .al true 1#4 15#4 3#4 2#4) svc6) .mulWithR15 = true ∧
    svc6.ready .al [15#4, 15#4, 2#4, 3#4] = true ∧
    refusedWith (exec (.umull .al true 15#4 15#4 2#4 3#4) svc6) .longMulWithR15 = true ∧
    svc6.ready .al [1#4, 2#4, 3#4, 2#4] = true ∧ 15#4 ∉ [1#4, 2#4, 3#4, 2#4] ∧
    refusedWith (exec (.smlal .al true 1#4 2#4 3#4 2#4) svc6) .longMulNotDistinct = true := by decide

/-- Words at the top of each address space. -/
def top6 : State := machine .arm6 .svc32 2#4 [(1, 0xFFFFFFF8#32), (2, 4#32), (3, 0xCAFEBABE#32)] [(0xFFFFFFFC, 0x11223344#32)]

/-- See `top6`. -/
def top2 : State := machine .arm2 .usr26 2#4 [(1, 0x04000000#32), (2, 4#32), (3, 0xCAFEBABE#32)] [(0x03FFFFFC, 0x11223344#32)]

theorem test_meets_LoadResult :
    (top6.ready .al (1#4 :: 0#4 :: (Offset.reg 0#5 .lsl 2#4).regs) = true ∧ 15#4 ∉ (Offset.reg 0#5 .lsl 2#4).regs ∧
      Size.word.fits (top6.reg 1 + top6.offsetValue (.reg 0#5 .lsl 2#4)) = true ∧
      top6.access .word .read true 0xFFFFFFFC#32 = none ∧
      nextOf (exec (transferInstr true .word .al true true true 1#4 0#4 (.reg 0#5 .lsl 2#4)) top6)
        (fun t => t.reg 0 == 0x11223344#32 && t.reg 1 == 0xFFFFFFFC#32) = true) ∧
    (top2.ready .al (1#4 :: 0#4 :: (Offset.imm 1#12).regs) = true ∧ Size.byte.fits (top2.reg 1 - 1#32) = true ∧
      top2.offsetValue (.imm 1#12) = 1#32 ∧ top2.access .byte .read false 0x03FFFFFF#32 = none ∧
      nextOf (exec (transferInstr true .byte .al true false false 1#4 1#4 (.imm 1#12)) top2)
        (fun t => t.reg 1 == 0x11#32) = true) ∧
    (svc6.ready .al (1#4 :: 0#4 :: (Offset.imm 0xFFF#12).regs) = true ∧ writesBack false true = true ∧
      (svc6.privileged && !(!false && true)) = false ∧ svc6.access .word .read false 0x9000#32 = none ∧
      nextOf (exec (transferInstr true .word .al false true true 1#4 0#4 (.imm 0xFFF#12)) svc6)
        (fun t => t.reg 0 == 0x11223344#32 && t.reg 1 == 0x9FFF#32) = true) := by decide

theorem test_meets_StoreResult :
    (top6.ready .al (1#4 :: 3#4 :: (Offset.imm 4#12).regs) = true ∧ Memory.wf top6.mem = true ∧
      top6.access .word .write true 0xFFFFFFFC#32 = none ∧
      nextOf (exec (transferInstr false .word .al true true false 1#4 3#4 (.imm 4#12)) top6)
        (fun t => t.wordAt 0xFFFFFFFC#32 == 0xCAFEBABE#32 && t.byte 0xFFFFFFFB == 0#8 && t.stored == [0xFFFFFFFC]) = true) ∧
    (top2.ready .al (1#4 :: 3#4 :: (Offset.imm 1#12).regs) = true ∧ Memory.wf top2.mem = true ∧
      top2.access .byte .write false 0x03FFFFFF#32 = none ∧
      nextOf (exec (transferInstr false .byte .al true false true 1#4 3#4 (.imm 1#12)) top2)
        (fun t => t.wordAt 0x03FFFFFC#32 == 0xBE223344#32 && t.reg 1 == 0x03FFFFFF#32) = true) ∧
    (svc6.ready .al (1#4 :: 3#4 :: (Offset.reg 0#5 .lsl 2#4).regs) = true ∧ Memory.wf svc6.mem = true ∧
      svc6.access .byte .write false 0x9000#32 = none ∧ 1#4 ∉ (Offset.reg 0#5 .lsl 2#4).regs ∧
      nextOf (exec (transferInstr false .byte .al false false true 1#4 3#4 (.reg 0#5 .lsl 2#4)) svc6)
        (fun t => t.wordAt 0x9000#32 == 0x11223300#32 && t.reg 1 == 0x8FFC#32) = true) := by decide

theorem test_meets_LoadIntoR15 :
    (top6.ready .al (1#4 :: (Offset.imm 4#12).regs) = true ∧ Word.aligned 0xFFFFFFFC#32 = true ∧
      top6.access .word .read true 0xFFFFFFFC#32 = none ∧
      nextOf (exec (transferInstr true .word .al true true false 1#4 15#4 (.imm 4#12)) top6) (fun t => t.pc == 0x11223344#32) = true) ∧
    (top2.ready .al (1#4 :: (Offset.reg 0#5 .lsl 2#4).regs) = true ∧ 15#4 ∉ (Offset.reg 0#5 .lsl 2#4).regs ∧
      top2.access .word .read false 0x03FFFFFC#32 = none ∧
      nextOf (exec (transferInstr true .word .al true false true 1#4 15#4 (.reg 0#5 .lsl 2#4)) top2)
        (fun t => t.pc == 0x01223344#32 && t.psr == top2.psr && t.reg 1 == 0x03FFFFFC#32) = true) := by decide

theorem test_meets_TransferRestrictions :
    svc6.ready .al [1#4, 0#4, 15#4] = true ∧
    refusedWith (exec (transferInstr true .word .al true true false 1#4 0#4 (.reg 0#5 .lsl 15#4)) svc6) .pcAsOffset = true ∧
    svc6.ready .al [15#4, 0#4] = true ∧ writesBack false false = true ∧
    refusedWith (exec (transferInstr true .word .al false true false 15#4 0#4 (.imm 0#12)) svc6) .r15BaseWriteBack = true ∧
    svc6.ready .al [1#4, 1#4] = true ∧
    refusedWith (exec (transferInstr false .byte .al true true true 1#4 1#4 (.imm 0#12)) svc6) .rdEqRnWriteBack = true ∧
    svc6.ready .al [1#4, 0#4, 1#4] = true ∧
    refusedWith (exec (transferInstr true .word .al false true true 1#4 0#4 (.reg 0#5 .lsl 1#4)) svc6) .rmEqRnPostIndexed = true ∧
    svc6.ready .al [1#4, 15#4] = true ∧
    refusedWith (exec (transferInstr false .word .al true true false 1#4 15#4 (.imm 0#12)) svc6) .storeOfR15 = true ∧
    refusedWith (exec (transferInstr true .byte .al true true false 1#4 15#4 (.imm 0#12)) svc6) .byteLoadToR15 = true ∧
    svc6.ready .al [1#4, 0#4] = true ∧ Word.aligned (svc6.reg 1 - svc6.offsetValue (.imm 3#12)) = false ∧
    refusedWith (exec (transferInstr true .word .al true false false 1#4 0#4 (.imm 3#12)) svc6) .unalignedAccess = true := by
  decide

theorem test_meets_TransferAborts :
    (top2.ready .al [1#4, 0#4] = true ∧ 2 ^ top2.cfg.variant.addrBits ≤ (top2.reg 1).toNat ∧
      agree (exec (transferInstr true .word .al true true true 1#4 0#4 (.imm 0#12)) top2) (takeException .addressException top2) = true) ∧
    (let s := aborting 0x9000 svc6
     s.ready .al [1#4, 3#4] = true ∧ (s.reg 1).toNat < 2 ^ s.cfg.variant.addrBits ∧
       s.cfg.aborts.any (fun r => r.hits (s.reg 1).toNat .word .write (s.privileged && !(!false && true))) = true ∧
       agree (exec (transferInstr false .word .al false true true 1#4 3#4 (.imm 4#12)) s) (takeException .dataAbort s) = true ∧
       s.cfg.aborts.any (fun r => r.hits (s.reg 1).toNat .word .write (s.privileged && !(!false && false))) = false ∧
       nextOf (exec (transferInstr false .word .al false true false 1#4 3#4 (.imm 4#12)) s)
         (fun t => t.wordAt 0x9000#32 == 0x80000000#32) = true) ∧
    (let s := withHole 0x9000 svc6
     s.ready .al [1#4, 0#4] = true ∧ s.cfg.aborts.any (fun r => r.hits (s.reg 1).toNat .byte .read s.privileged) = false ∧
       s.cfg.holes.any (fun r => r.holds (s.reg 1).toNat) = true ∧
       faultsWith (exec (transferInstr true .byte .al true true false 1#4 0#4 (.imm 0#12)) s) .unbackedAddress = true) := by
  decide

/-- On a 32-bit part with all of memory backed and no rule of the memory manager, nothing stops an access. -/
theorem access_open (s : State) (hv : s.cfg.variant = .arm6) (hh : s.cfg.holes = []) (ha : s.cfg.aborts = []) (z : Size)
    (k : AccessKind) (p : Bool) (a : Word) : s.access z k p a = none := by
  have := a.isLt
  simp only [State.access, hv, hh, ha, Variant.addrBits, Variant.hasPsr32, List.any_nil]
  rw [if_neg (by simp; omega)]
  simp

theorem test_meets_BlockLoadResult :
    (svc6.ready .al (1#4 :: listRegs 0x4005#16) = true ∧ (0x4005#16).getLsbD 15 = false ∧ (0x4005#16).getLsbD 1 = false ∧
      Word.aligned (svc6.reg 1#4) = true ∧
      (∀ r : Reg, (0x4005#16).getLsbD r.toNat = true →
        svc6.access .word .read svc6.privileged (blockWordAddr true false (svc6.reg 1#4) 0x4005#16 r) = none) ∧
      nextOf (exec (blockInstr true true false .al false true 1#4 0x4005#16) svc6)
        (fun t => t.reg 0 == 0#32 && t.reg 2 == 0#32 && t.reg 14 == 0xAABBCCDD#32 && t.reg 1 == 0x8FF4#32) = true) ∧
    (usr2.ready .al (1#4 :: listRegs 0x0002#16) = true ∧
      (∀ r : Reg, (0x0002#16).getLsbD r.toNat = true →
        usr2.access .word .read usr2.privileged (blockWordAddr false true (usr2.reg 1#4) 0x0002#16 r) = none) ∧
      nextOf (exec (blockInstr true false true .al false false 1#4 0x0002#16) usr2) (fun t => t.reg 1 == 0x11223344#32) = true) := by
  decide

theorem test_meets_BlockStoreResult :
    (svc6.ready .al (1#4 :: listRegs 0x400D#16) = true ∧ (0x400D#16).getLsbD 15 = false ∧ (0x400D#16).getLsbD 1 = false ∧
      Word.aligned (svc6.reg 1#4) = true ∧ Memory.wf svc6.mem = true ∧
      (∀ r : Reg, (0x400D#16).getLsbD r.toNat = true →
        svc6.access .word .write svc6.privileged (blockWordAddr true true (svc6.reg 1#4) 0x400D#16 r) = none) ∧
      nextOf (exec (blockInstr false true true .al false true 1#4 0x400D#16) svc6)
        (fun t => t.wordAt 0x9000#32 == 0x11223344#32 && t.wordAt 0x9008#32 == 4#32 && t.wordAt 0x900C#32 == 0x80000000#32
          && t.reg 1 == 0x9010#32) = true) ∧
    (top6.ready .al (1#4 :: listRegs 0x0002#16) = true ∧
      (∀ r : Reg, (0x0002#16).getLsbD r.toNat = true →
        top6.access .word .write top6.privileged (blockWordAddr false false (top6.reg 1#4) 0x0002#16 r) = none) ∧
      nextOf (exec (blockInstr false false false .al false false 1#4 0x0002#16) top6)
        (fun t => t.wordAt 0xFFFFFFF8#32 == 0xFFFFFFF8#32) = true) := by decide

theorem test_meets_BlockLoadOfR15 :
    (svc6.ready .al (1#4 :: listRegs 0x8001#16) = true ∧ (0x8001#16).getLsbD 15 = true ∧ (0x8001#16).getLsbD 1 = false ∧
      Word.aligned (svc6.reg 1#4) = true ∧
      (∀ r : Reg, (0x8001#16).getLsbD r.toNat = true →
        svc6.access .word .read svc6.privileged (blockWordAddr false true (svc6.reg 1#4) 0x8001#16 r) = none) ∧
      nextOf (exec (blockInstr true false true .al false true 1#4 0x8001#16) svc6)
        (fun t => t.reg 0 == 0x11223344#32 && t.pc == 0x55667788#32 && t.reg 1 == 0x9008#32) = true) ∧
    (usr2.mode26 = true ∧ usr2.ready .al (1#4 :: listRegs 0x8001#16) = true ∧
      (∀ r : Reg, (0x8001#16).getLsbD r.toNat = true →
        usr2.access .word .read usr2.privileged (blockWordAddr false true (usr2.reg 1#4) 0x8001#16 r) = none) ∧
      nextOf (exec (blockInstr true false true .al true false 1#4 0x8001#16) usr2)
        (fun t => t.pc == 0x01667788#32 && nzcv t == 5#4 && t.psr.mode == .usr26 && !t.psr.i) = true) ∧
    (usr6.mode26 = false ∧ usr6.privileged = false ∧
      refusedWith (exec (blockInstr true false true .al true false 1#4 0x8001#16) usr6) .blockRestoreInUser32 = true) ∧
    ((saved 16#5).psr.mode.bank = some .svc ∧ Mode.ofBits ((saved 16#5).spsrs.read .svc).m = some .usr32 ∧
      nextOf (exec (blockInstr true false true .al true false 1#4 0x8000#16) (saved 16#5))
        (fun t => t.pc == 0x11223344#32 && t.psr.mode == .usr32 && nzcv t == 8#4) = true) ∧
    (Mode.ofBits ((saved 0#5).spsrs.read .svc).m = some .usr26 ∧
      ((svc6.wordAt (blockWordAddr true true (svc6.reg 1#4) 0x8000#16 15#4)) &&& 0xFFFFFFFC#32).toNat ≥ 2 ^ 26 ∧
      refusedWith (exec (blockInstr true true true .al true false 1#4 0x8000#16) (saved 0#5)) .pcOutOf26BitRange = true ∧
      nextOf (exec (blockInstr true true true .al true false 2#4 0x8000#16) (saved 0#5))
        (fun t => t.pc == 0#32 && t.psr.mode == .usr26) = true) ∧
    ((saved 31#5).mode26 = false ∧ Mode.ofBits ((saved 31#5).spsrs.read .svc).m = none ∧
      faultsWith (exec (blockInstr true true true .al true false 1#4 0x8000#16) (saved 31#5)) .undefinedMode = true) := by
  decide

theorem test_meets_UserBankTransfers :
    (svc6.ready .al (1#4 :: listRegs 0x6000#16) = true ∧ svc6.privileged = true ∧ (0x6000#16).getLsbD 15 = false ∧
      (∀ r : Reg, (0x6000#16).getLsbD r.toNat = true →
        svc6.access .word .read true (blockWordAddr false true (svc6.reg 1#4) 0x6000#16 r) = none) ∧
      nextOf (exec (blockInstr true false true .al true false 1#4 0x6000#16) svc6)
        (fun t => t.userReg 13 == 0x11223344#32 && t.userReg 14 == 0x55667788#32 && t.reg 13 == 0#32 && t.hazard) = true) ∧
    (Memory.wf svc6.mem = true ∧
      (∀ r : Reg, (0x0006#16).getLsbD r.toNat = true →
        svc6.access .word .write true (blockWordAddr true false (svc6.reg 1#4) 0x0006#16 r) = none) ∧
      nextOf (exec (blockInstr false true false .al true false 1#4 0x0006#16) svc6)
        (fun t => t.wordAt 0x8FF8#32 == 0x9000#32 && t.wordAt 0x8FFC#32 == 4#32 && t.hazard) = true) ∧
    (usr6.ready .al (1#4 :: listRegs 0x6000#16) = true ∧ usr6.privileged = false ∧
      agree (exec (blockInstr true false true .al true true 1#4 0x6000#16) usr6)
        (exec (blockInstr true false true .al false true 1#4 0x6000#16) usr6) = true ∧
      nextOf (exec (blockInstr true false true .al true true 1#4 0x6000#16) usr6)
        (fun t => t.reg 13 == 0x11223344#32 && t.reg 1 == 0x9008#32 && !t.hazard) = true) := by decide

theorem test_meets_BlockRestrictions :
    svc6.ready .al (15#4 :: listRegs 0x0001#16) = true ∧
    refusedWith (exec (blockInstr true false true .al false false 15#4 0x0001#16) svc6) .pcAsBase = true ∧
    svc6.ready .al (1#4 :: listRegs 0#16) = true ∧
    refusedWith (exec (blockInstr false false true .al false true 1#4 0#16) svc6) .emptyList = true ∧
    svc6.ready .al (1#4 :: listRegs 0x0002#16) = true ∧
    refusedWith (exec (blockInstr true false true .al false true 1#4 0x0002#16) svc6) .baseInListWriteBack = true ∧
    svc6.ready .al (1#4 :: listRegs 0x8000#16) = true ∧
    refusedWith (exec (blockInstr false false true .al true false 1#4 0x8000#16) svc6) .storeOfR15 = true ∧
    svc6.ready .al (1#4 :: listRegs 0x4000#16) = true ∧ svc6.privileged = true ∧
    refusedWith (exec (blockInstr true false true .al true true 1#4 0x4000#16) svc6) .userBankWriteBack = true ∧
    (svc6.setReg 1 0x9001#32).ready .al (1#4 :: listRegs 0x4000#16) = true ∧
    Word.aligned ((svc6.setReg 1 0x9001#32).reg 1#4) = false ∧
    refusedWith (exec (blockInstr true false true .al false false 1#4 0x4000#16) (svc6.setReg 1 0x9001#32)) .unalignedAccess = true := by
  decide

theorem test_meets_BlockAborts :
    (let s := top2.setReg 1 0x03FFFFFC#32
     s.ready .al (1#4 :: listRegs 0x000C#16) = true ∧ Word.aligned (s.reg 1#4) = true ∧ Memory.wf s.mem = true ∧
       (0x000C#16).getLsbD (3#4).toNat = true ∧
       2 ^ s.cfg.variant.addrBits ≤ (blockWordAddr false true (s.reg 1#4) 0x000C#16 3#4).toNat ∧
       agree (exec (blockInstr false false true .al false false 1#4 0x000C#16) s) (takeException .addressException s) = true) ∧
    (let s := aborting 0x9004 usr6
     s.ready .al (1#4 :: listRegs 0x001C#16) = true ∧ Memory.wf s.mem = true ∧ (0x001C#16).getLsbD (3#4).toNat = true ∧
       (∀ q : Reg, (0x001C#16).getLsbD q.toNat = true →
         (blockWordAddr false true (s.reg 1#4) 0x001C#16 q).toNat < 2 ^ s.cfg.variant.addrBits) ∧
       (∀ q : Reg, (0x001C#16).getLsbD q.toNat = true → q.toNat < (3#4 : Reg).toNat →
         s.access .word .write s.privileged (blockWordAddr false true (s.reg 1#4) 0x001C#16 q) = none) ∧
       s.stopsAccess .word .write s.privileged (blockWordAddr false true (s.reg 1#4) 0x001C#16 3#4) (.exc .dataAbort) ∧
       nextOf (exec (blockInstr false false true .al false true 1#4 0x001C#16) s)
         (fun t => t.pc == 0x10#32 && t.wordAt 0x9000#32 == 4#32 && t.wordAt 0x9004#32 == 0x55667788#32
           && t.userReg 1 == 0x9000#32) = true ∧
       nextOf (exec (blockInstr true false true .al false true 1#4 0x001C#16) s)
         (fun t => t.pc == 0x10#32 && t.mem == s.mem && t.userReg 2 == 4#32) = true) := by
  unfold State.stopsAccess; decide

theorem test_meets_BlockAborts_unbacked :
    let s := withHole 0x9004 svc6
    s.ready .al (1#4 :: listRegs 0x6000#16) = true ∧ (0x6000#16).getLsbD (14#4).toNat = true ∧
    s.access .word .write s.privileged (blockWordAddr false true (s.reg 1#4) 0x6000#16 13#4) = none ∧
    s.stopsAccess .word .write s.privileged (blockWordAddr false true (s.reg 1#4) 0x6000#16 14#4) (.fault .unbackedAddress) ∧
    faultsWith (exec (blockInstr false false true .al true false 1#4 0x6000#16) s) .unbackedAddress = true := by
  unfold State.stopsAccess; decide

/-- A coprocessor 1 that answers every instruction. -/
def willing : Coproc := { accepts := [⟨0#28, 0#28⟩], words := [] }

/-- The machine with coprocessor 1 attached: it answers every instruction, or none. -/
def attach (answers : Bool) (s : State) : State := s.setCoproc 1#4 (if answers then willing else { accepts := [], words := [] })

theorem test_meets_AbsentCoprocessorTraps :
    condPassed .al svc6.psr = true ∧ svc6.coproc 15#4 = none ∧
    agree (exec (.cdp .al 0#4 0#4 0#4 15#4 0#3 0#4) svc6) (takeException .undefinedInstruction svc6) = true ∧
    agree (exec (.mrc .al 0#3 0#4 15#4 15#4 0#3 0#4) svc6) (takeException .undefinedInstruction svc6) = true ∧
    agree (exec (.mcr .al 0#3 0#4 14#4 15#4 0#3 0#4) svc6) (takeException .undefinedInstruction svc6) = true ∧
    agree (exec (.ldc .al false true false true 15#4 0#4 15#4 0#8) svc6) (takeException .undefinedInstruction svc6) = true ∧
    (attach false usr2).coproc 1#4 = some { accepts := [], words := [] } ∧
    ({ accepts := [], words := [] } : Coproc).responds ((encode (.stc .al true true false true 1#4 0#4 1#4 0#8)).extractLsb' 0 28) = false ∧
    agree (exec (.stc .al true true false true 1#4 0#4 1#4 0#8) (attach false usr2))
      (takeException .undefinedInstruction (attach false usr2)) = true := by decide

theorem test_meets_CoprocessorOperations :
    (attach true svc6).coproc 1#4 = some willing ∧ condPassed .al (attach true svc6).psr = true ∧
    willing.responds ((encode (.cdp .al 15#4 0#4 0#4 1#4 0#3 0#4)).extractLsb' 0 28) = true ∧
    nextOf (exec (.cdp .al 15#4 0#4 0#4 1#4 0#3 0#4) (attach true svc6)) (fun t => t.pc == 0x8004#32 && t.regs == svc6.regs) = true ∧
    refusedWith (exec (.mcr .al 0#3 0#4 15#4 1#4 0#3 0#4) (attach true svc6)) .mcrWithR15 = true ∧
    (attach true svc6).ready .al [14#4] = true ∧
    willing.responds ((encode (.mcr .al 0#3 0#4 14#4 1#4 0#3 0#4)).extractLsb' 0 28) = true ∧
    nextOf (exec (.mcr .al 0#3 0#4 14#4 1#4 0#3 0#4) (attach true svc6)) (fun t => t.pc == 0x8004#32 && t.regs == svc6.regs) = true ∧
    (attach true svc6).ready .al [15#4] = true ∧
    willing.responds ((encode (.mrc .al 0#3 0#4 15#4 1#4 0#3 0#4)).extractLsb' 0 28) = true ∧
    nextOf (exec (.mrc .al 0#3 0#4 15#4 1#4 0#3 0#4) (attach true svc6))
      (fun t => t.pc == 0x8004#32 && t.psr.mode == .svc32 && t.regs == svc6.regs) = true ∧
    nextOf (exec (.mrc .al 0#3 0#4 14#4 1#4 0#3 0#4) (attach true svc6)) (fun t => t.pc == 0x8004#32 && t.psr == svc6.psr) = true := by
  decide

theorem test_meets_CoprocessorLoad :
    let s := attach true svc6
    s.coproc 1#4 = some willing ∧
    (s.ready .al [15#4] = true ∧ writesBack false true = true ∧
      willing.responds ((encode (.ldc .al false true false true 15#4 0#4 1#4 0#8)).extractLsb' 0 28) = true ∧
      refusedWith (exec (.ldc .al false true false true 15#4 0#4 1#4 0#8) s) .r15BaseWriteBack = true) ∧
    ((s.setReg 1 0x9002#32).ready .al [1#4] = true ∧ Word.aligned ((s.setReg 1 0x9002#32).reg 1 + 4#32) = false ∧
      willing.responds ((encode (.ldc .al true true false true 1#4 0#4 1#4 1#8)).extractLsb' 0 28) = true ∧
      refusedWith (exec (.ldc .al true true false true 1#4 0#4 1#4 1#8) (s.setReg 1 0x9002#32)) .unalignedAccess = true) ∧
    (s.ready .al [1#4] = true ∧ (1#4 : Reg) ≠ 15#4 ∧ Word.aligned (s.reg 1 - 4#32 * (255#8 : BitVec 8).setWidth 32) = true ∧
      ∀ j : Nat, s.access .word .read s.privileged
        (s.reg 1 - 4#32 * (255#8 : BitVec 8).setWidth 32 + BitVec.ofNat 32 (4 * j)) = none) :=
  ⟨by decide, by decide, by decide, by decide, by decide, by decide, fun _ => access_open _ rfl rfl rfl _ _ _ _⟩

theorem test_meets_CoprocessorStore :
    let s := attach true svc6
    s.coproc 1#4 = some willing ∧ Memory.wf s.mem = true ∧
    (s.ready .al [15#4] = true ∧ writesBack true true = true ∧
      willing.responds ((encode (.stc .al true true false true 15#4 0#4 1#4 0#8)).extractLsb' 0 28) = true ∧
      refusedWith (exec (.stc .al true true false true 15#4 0#4 1#4 0#8) s) .r15BaseWriteBack = true) ∧
    ((s.setReg 1 0x9002#32).ready .al [1#4] = true ∧ Word.aligned ((s.setReg 1 0x9002#32).reg 1) = false ∧
      willing.responds ((encode (.stc .al false true false true 1#4 0#4 1#4 1#8)).extractLsb' 0 28) = true ∧
      refusedWith (exec (.stc .al false true false true 1#4 0#4 1#4 1#8) (s.setReg 1 0x9002#32)) .unalignedAccess = true) ∧
    (s.ready .al [1#4] = true ∧ (1#4 : Reg) ≠ 15#4 ∧ Word.aligned (s.reg 1) = true ∧
      ∀ j : Nat, s.access .word .write s.privileged (s.reg 1 + BitVec.ofNat 32 (4 * j)) = none) :=
  ⟨by decide, by decide, by decide, by decide, by decide, by decide, by decide, fun _ => access_open _ rfl rfl rfl _ _ _ _⟩

theorem test_meets_CoprocessorLoad_stopped :
    (let s := attach true (aborting 0x9000 usr6)
     s.ready .al [1#4] = true ∧ s.coproc 1#4 = some willing ∧
       s.stopsAccess .word .read s.privileged (s.reg 1) (.exc .dataAbort) ∧
       agree (exec (.ldc .al false true false false 1#4 0#4 1#4 1#8) s) (takeException .dataAbort s) = true) ∧
    (let s := attach true top2
     s.ready .al [1#4] = true ∧ s.coproc 1#4 = some willing ∧
       s.stopsAccess .word .read s.privileged (s.reg 1) (.exc .addressException) ∧
       agree (exec (.ldc .al true true false true 1#4 0#4 1#4 0#8) s) (takeException .addressException s) = true) ∧
    (let s := attach true (withHole 0x9000 svc6)
     s.stopsAccess .word .read s.privileged (s.reg 1) (.fault .unbackedAddress) ∧
       faultsWith (exec (.ldc .al false true false false 1#4 0#4 1#4 1#8) s) .unbackedAddress = true) := by
  unfold State.stopsAccess; decide

/-- STC's words are as many as its coprocessor says, so its answer here is not evaluated. -/
theorem test_meets_CoprocessorStore_stopped :
    (let s := attach true (aborting 0x9000 usr6)
     s.ready .al [1#4] = true ∧ s.coproc 1#4 = some willing ∧ Memory.wf s.mem = true ∧
       willing.responds ((encode (.stc .al false true false false 1#4 0#4 1#4 1#8)).extractLsb' 0 28) = true ∧
       Word.aligned (s.reg 1) = true ∧ s.stopsAccess .word .write s.privileged (s.reg 1) (.exc .dataAbort)) ∧
    (let s := attach true top2
     s.ready .al [1#4] = true ∧ s.coproc 1#4 = some willing ∧ Memory.wf s.mem = true ∧
       willing.responds ((encode (.stc .al true true false true 1#4 0#4 1#4 0#8)).extractLsb' 0 28) = true ∧
       Word.aligned (s.reg 1) = true ∧ s.stopsAccess .word .write s.privileged (s.reg 1) (.exc .addressException)) ∧
    (let s := attach true (withHole 0x9000 svc6)
     s.stopsAccess .word .write s.privileged (s.reg 1) (.fault .unbackedAddress)) := by
  unfold State.stopsAccess; decide

theorem test_meets_SwapResult :
    (svc6.ready .al [1#4, 0#4, 15#4] = true ∧ refusedWith (exec (.swp .al 1#4 0#4 15#4) svc6) .swpWithR15 = true) ∧
    ((svc6.setReg 1 0x9003#32).ready .al [1#4, 0#4, 2#4] = true ∧ 15#4 ∉ [1#4, 0#4, 2#4] ∧
      Size.word.fits ((svc6.setReg 1 0x9003#32).reg 1) = false ∧
      refusedWith (exec (.swp .al 1#4 0#4 2#4) (svc6.setReg 1 0x9003#32)) .unalignedAccess = true ∧
      Size.byte.fits ((svc6.setReg 1 0x9003#32).reg 1) = true ∧ Memory.wf svc6.mem = true ∧
      svc6.access .byte .read true 0x9003#32 = none ∧ svc6.access .byte .write true 0x9003#32 = none ∧
      nextOf (exec (.swpb .al 1#4 2#4 2#4) (svc6.setReg 1 0x9003#32))
        (fun t => t.reg 2 == 0x11#32 && t.wordAt 0x9000#32 == 0x04223344#32) = true) ∧
    (Size.word.fits (svc6.reg 1) = true ∧ svc6.access .word .read true 0x9000#32 = none ∧
      svc6.access .word .write true 0x9000#32 = none ∧
      nextOf (exec (.swp .al 1#4 1#4 2#4) svc6) (fun t => t.reg 1 == 0x11223344#32 && t.wordAt 0x9000#32 == 4#32) = true) := by
  decide

/-- The machine whose memory manager aborts user-mode writes to the word at `a`, and not reads. -/
def readOnly (a : Nat) (s : State) : State :=
  { s with cfg := { s.cfg with aborts := [{ abortRule a with onRead := false }] } }

theorem test_meets_SwapResult_stopped :
    (let s := aborting 0x9000 usr6
     s.ready .al [1#4, 0#4, 2#4] = true ∧ s.stopsAccess .word .read s.privileged (s.reg 1) (.exc .dataAbort) ∧
       agree (exec (.swp .al 1#4 0#4 2#4) s) (takeException .dataAbort s) = true) ∧
    (let s := readOnly 0x9000 usr6
     s.ready .al [1#4, 0#4, 2#4] = true ∧ s.access .byte .read s.privileged (s.reg 1) = none ∧
       s.stopsAccess .byte .write s.privileged (s.reg 1) (.exc .dataAbort) ∧
       agree (exec (.swpb .al 1#4 0#4 2#4) s) (takeException .dataAbort s) = true) ∧
    (top2.ready .al [1#4, 0#4, 2#4] = true ∧ top2.stopsAccess .word .read top2.privileged (top2.reg 1) (.exc .addressException) ∧
      agree (exec (.swp .al 1#4 0#4 2#4) top2) (takeException .addressException top2) = true) ∧
    (let s := withHole 0x9000 svc6
     s.stopsAccess .byte .read s.privileged (s.reg 1) (.fault .unbackedAddress) ∧
       faultsWith (exec (.swpb .al 1#4 0#4 2#4) s) .unbackedAddress = true) := by
  unfold State.stopsAccess; decide

theorem test_meets_StatusToRegister :
    svc6.ready .al [15#4] = true ∧ refusedWith (exec (.mrs .al false 15#4) svc6) .mrsRdR15 = true ∧
    usr6.ready .al [0#4] = true ∧ usr6.privileged = false ∧
    refusedWith (exec (.mrs .al true 0#4) usr6) .spsrInUserMode = true ∧
    nextOf (exec (.mrs .al false 0#4) usr6) (fun t => t.pc == 0x8004#32 && t.psr == usr6.psr) = true ∧
    svc6.ready .al [14#4] = true ∧ svc6.privileged = true ∧
    nextOf (exec (.mrs .al true 14#4) svc6) (fun t => t.pc == 0x8004#32 && t.psr == svc6.psr) = true := by decide

theorem test_meets_RegisterToStatus :
    (condPassed .al usr6.psr = true ∧ refusedWith (exec (.msrReg .al false .flg 15#4) usr6) .msrRmR15 = true ∧
      refusedWith (exec (.msrReg .al true .all 15#4) svc6) .msrRmR15 = true) ∧
    (usr6.ready .al [3#4] = true ∧ usr6.privileged = false ∧
      nextOf (exec (.msrReg .al false .all 3#4) usr6) (fun t => nzcv t == 8#4 && t.psr.mode == .usr32) = true ∧
      nextOf (exec (.msrReg .al false .ctl 3#4) usr6) (fun t => t.psr == usr6.psr && t.pc == 0x8004#32) = true ∧
      nextOf (exec (.msrReg .al false .flg 3#4) svc6) (fun t => nzcv t == 8#4 && t.psr.mode == .svc32) = true) ∧
    (condPassed .al svc6.psr = true ∧ (immOperand 0#4 0x15#8 false).value = 0x15#32 ∧ Mode.ofBits 0x15#5 = none ∧
      faultsWith (exec (.msrImm .al false .ctl 0#4 0x15#8) svc6) .undefinedMode = true) ∧
    (Mode.ofBits 0#5 = some .usr26 ∧ (atPc 0x03FFFFFC#32 svc6).mode26 = false ∧ 2 ^ 26 ≤ (0x03FFFFFC#32 + 4#32 : Word).toNat ∧
      refusedWith (exec (.msrImm .al false .ctl 0#4 0#8) (atPc 0x03FFFFFC#32 svc6)) .pcOutOf26BitRange = true ∧
      nextOf (exec (.msrImm .al false .ctl 0#4 0#8) (atPc 0x03FFFFF8#32 svc6))
        (fun t => t.psr.mode == .usr26 && t.pc == 0x03FFFFFC#32 && nzcv t == 2#4) = true) ∧
    (Mode.ofBits 0x1B#5 = some .und32 ∧
      nextOf (exec (.msrImm .al false .all 0#4 0xDB#8) svc6)
        (fun t => t.psr.mode == .und32 && t.psr.i && t.psr.f && nzcv t == 0#4) = true) ∧
    refusedWith (exec (.msrImm .al true .flg 0#4 0#8) usr6) .spsrInUserMode = true ∧
    (svc6.psr.mode.bank = some .svc ∧
      nextOf (exec (.msrImm .al true .ctl 0#4 0xFF#8) svc6)
        (fun t => t.spsrs.svc.m == 31#5 && t.spsrs.svc.i && !t.spsrs.svc.n && t.psr == svc6.psr) = true ∧
      nextOf (exec (.msrImm .al true .flg 2#4 0xFF#8) svc6)
        (fun t => t.spsrs.svc.m == 0#5 && !t.spsrs.svc.i && t.spsrs.svc.n && t.spsrs.svc.v) = true) := by decide

theorem test_meets_HazardLastsOneInstruction :
    nextOf (exec (testPInstr .teq .al 1#4 (.imm 1#4 3#8)) svc2)
      (fun t => t.hazard && svc2.privileged && t.psr.mode != svc2.psr.mode) = true ∧
    nextOf (exec (blockInstr false false true .al true false 1#4 0x4000#16) svc2) (fun t => t.hazard) = true ∧
    nextOf (exec (blockInstr true false true .al true false 1#4 0x4000#16) svc6) (fun t => t.hazard) = true ∧
    nextOf (takeException .irq { svc2 with hazard := true }) (fun t => !t.hazard) = true := by decide

theorem test_meets_HazardLastsOneInstruction_refused :
    let s : State := attach true { svc6 with hazard := true }
    let stops (i : Instr) : Bool := refusedWith (exec i s) .bankedRegisterAfterModeChange
    s.hazard = true ∧ condPassed .al s.psr = true ∧ anyBanked [8#4] = true ∧ anyBanked [14#4] = true ∧
    anyBanked [7#4, 15#4] = false ∧
    stops (dpInstr .mov .al false 0#4 8#4 (.imm 0#4 0#8)) = true ∧
    stops (testInstr .cmp .al 14#4 0#4 (.imm 0#4 0#8)) = true ∧
    stops (testPInstr .cmp .al 0#4 (.reg 0#5 .lsl 8#4)) = true ∧
    stops (.mul .al false 1#4 0#4 8#4 2#4) = true ∧ stops (.mla .al false 1#4 8#4 3#4 2#4) = true ∧
    stops (.smlal .al false 8#4 1#4 2#4 3#4) = true ∧
    stops (transferInstr true .word .al true true false 1#4 14#4 (.imm 0#12)) = true ∧
    stops (blockInstr true false true .al true false 1#4 0x4000#16) = true ∧
    stops (.swpb .al 1#4 0#4 14#4) = true ∧ stops (.bl .al 0#24) = true ∧
    stops (.mrs .al false 8#4) = true ∧ stops (.msrReg .al true .all 14#4) = true ∧
    s.coproc 1#4 = some willing ∧
    willing.responds ((encode (.mcr .al 0#3 0#4 8#4 1#4 0#3 0#4)).extractLsb' 0 28) = true ∧
    stops (.mcr .al 0#3 0#4 8#4 1#4 0#3 0#4) = true ∧ stops (.mrc .al 0#3 0#4 14#4 1#4 0#3 0#4) = true ∧
    stops (.ldc .al true true false false 13#4 0#4 1#4 0#8) = true ∧
    stops (.stc .al true true false false 13#4 0#4 1#4 0#8) = true := by decide

theorem test_meets_BankedRegisters :
    (14#4 : Reg) ≠ 15#4 ∧ Mode.fiq26.preg 14#4 = some (.fiq 6) ∧ Mode.fiq26.preg 8#4 = some (.fiq 0) ∧
    Mode.fiq26.preg 7#4 = some (.usr 7) ∧ Mode.irq26.preg 13#4 = some (.irq 0) ∧ Mode.irq26.preg 12#4 = some (.usr 12) ∧
    Mode.fiq26.preg 8#4 = Mode.fiq32.preg 8#4 := by decide

theorem test_meets_RegisterReadsAndWrites :
    Mode.svc32.preg 13#4 = some (.svc 0) ∧ (svc6.setReg 13 7#32).reg 13#4 = 7#32 ∧ (svc6.setReg 13 7#32).userReg 13#4 = 0#32 ∧
    (svc6.setUserReg 13 7#32).userReg 13#4 = 7#32 ∧ (svc6.setUserReg 13 7#32).reg 13#4 = 0#32 ∧
    Mode.usr32.preg 13#4 ≠ some (.svc 0) := by decide

end Sys2Proof.Tests
end

section
/-!
PROOF. What an answer ensures of the next state: one rule per shared operation, for any property of states; the
meanings of the instructions by family; and, from these, that no step changes the configuration (00_scope R6).
-/

namespace Sys2Proof.Machine

/-! ## What an answer ensures -/

/-- The next state, if the answer is one, has the property. -/
def Ensures (a : Answer) (P : State → Prop) : Prop := ∀ t, a = .next t → P t

section
variable {P : State → Prop} {s t : State}

@[simp] theorem ensures_next : Ensures (.next t) P ↔ P t :=
  ⟨fun h => h t rfl, fun h _ ht => Host.Outcome.next.inj ht ▸ h⟩

@[simp] theorem ensures_fault (f : Fault) : Ensures (.fault f) P := fun _ h => by cases h

@[simp] theorem ensures_refused (r : Refusal) : Ensures (.refused r) P := fun _ h => by cases h

theorem ensures_ite {p : Prop} [Decidable p] {a b : Answer} (ha : p → Ensures a P) (hb : ¬p → Ensures b P) :
    Ensures (if p then a else b) P := by
  split
  · exact ha ‹_›
  · exact hb ‹_›

theorem ensures_refuseIf {r : Option Refusal} {a : Answer} (h : r = none → Ensures a P) :
    Ensures (refuseIf r a) P := fun t ht =>
  have ⟨hr, ha⟩ := refuseIf_next ht
  h hr t ha

theorem ensures_stopWith {e : Stop} (h : ∀ x, e = .exc x → Ensures (takeException x s) P) :
    Ensures (stopWith s e) P := fun t ht =>
  have ⟨x, hx, hs⟩ := stopWith_next ht
  h x hx t hs

theorem ensures_andThen {α : Type} {r : Except Stop α} {k : α → Answer}
    (hstop : ∀ x, r = .error (.exc x) → Ensures (takeException x s) P)
    (hok : ∀ a, r = .ok a → Ensures (k a) P) : Ensures (andThen s r k) P := by
  intro t ht
  rcases andThen_next ht with ⟨x, hx, h⟩ | ⟨a, ha, h⟩
  · exact hstop x hx t h
  · exact hok a ha t h

theorem ensures_conditional {c : Cond} {body : State → Answer} (hskip : P { s with pc := s.successor, hazard := false })
    (h : condPassed c s.psr = true → Ensures (body s) P) : Ensures (conditional c s body) P := by
  intro t ht
  rcases conditional_next ht with ⟨-, rfl⟩ | ⟨hc, hb⟩
  · exact hskip
  · exact h hc t hb

theorem ensures_guardBanked {b : Bool} {body : State → Answer} (h : Ensures (body { s with hazard := false }) P) :
    Ensures (guardBanked b s body) P := fun t ht => h t (guardBanked_next ht).2

theorem ensures_instruction {c : Cond} {rs : List Reg} {body : State → Answer}
    (hskip : P { s with pc := s.successor, hazard := false })
    (h : s.ready c rs = true → Ensures (body { s with hazard := false }) P) : Ensures (instruction c rs s body) P := by
  intro t ht
  rcases instruction_next ht with ⟨-, rfl⟩ | ⟨hr, hb⟩
  · exact hskip
  · exact h hr t hb

/-- A coprocessor instruction traps, or runs its own rule with the coprocessor that responds (47_coprocessor R301). -/
theorem ensures_withCoproc {i : Instr} {p : BitVec 4} {rs : List Reg} {body : Coproc → State → Answer}
    (htrap : Ensures (takeException .undefinedInstruction s) P)
    (h : ∀ k, s.coproc p = some k → Ensures (body k { s with hazard := false }) P) :
    Ensures (withCoproc i p rs s body) P := by
  unfold withCoproc
  split
  · exact htrap
  · next k hk => exact ensures_ite (fun _ => ensures_guardBanked (h k hk)) fun _ => htrap

end

/-! ## The meanings of the instructions, by family -/

/-- What the instructions mean, one constructor for each rule that some of them share or one has alone. -/
inductive Meaning : (State → Answer) → Prop
  | multiply (c sb rd rm named result) : Meaning (multiply c sb rd rm named result)
  | longMultiply (signed accumulate c sb rh rl rs rm) : Meaning (longMultiply signed accumulate c sb rh rl rs rm)
  | swap (z c rn rd rm) : Meaning (swap z c rn rd rm)
  | trap (c e) : Meaning fun s => instruction c [] s (takeException e)
  | mrs (c spsr rd) : Meaning (execMrs c spsr rd)
  | msrReg (c spsr a rm) : Meaning (execMsrReg c spsr a rm)
  | msrImm (c spsr a rot imm) : Meaning (execMsrImm c spsr a rot imm)
  | dataProc (op c sb rn rd o) : Meaning (dataProc op c sb rn rd o)
  | dataTest (op c rn o) : Meaning (dataTest op c rn o)
  | dataTestP (op c rn o) : Meaning (dataTestP op c rn o)
  | singleTransfer (l z c p u w rn rd o) : Meaning (singleTransfer l z c p u w rn rd o)
  | blockLoad (p u c sb w rn list) : Meaning (blockLoad p u c sb w rn list)
  | blockStore (p u c sb w rn list) : Meaning (blockStore p u c sb w rn list)
  | b (c off) : Meaning (execB c off)
  | bl (c off) : Meaning (execBl c off)
  | ldc (c p u n w rn crd cp off) : Meaning (execLdc c p u n w rn crd cp off)
  | stc (c p u n w rn crd cp off) : Meaning (execStc c p u n w rn crd cp off)
  | cdp (c op crn crd cp q crm) : Meaning (execCdp c op crn crd cp q crm)
  | mrc (c op crn rd cp q crm) : Meaning (execMrc c op crn rd cp q crm)
  | mcr (c op crn rd cp q crm) : Meaning (execMcr c op crn rd cp q crm)

/-- Each of the 105 instructions has one of these meanings. -/
theorem exec_meaning (i : Instr) : Meaning (exec i) := by
  cases i with
  | mul | mla => exact .multiply ..
  | umull | umlal | smull | smlal => exact .longMultiply ..
  | swp | swpb => exact .swap ..
  | undefinedArm2 | undefined | swi => exact .trap ..
  | mrs => exact .mrs ..
  | msrReg => exact .msrReg ..
  | msrImm => exact .msrImm ..
  | tstpImm | tstpReg | tstpRegShift | teqpImm | teqpReg | teqpRegShift | cmppImm | cmppReg | cmppRegShift
  | cmnpImm | cmnpReg | cmnpRegShift => exact .dataTestP ..
  | tstImm | tstReg | tstRegShift | teqImm | teqReg | teqRegShift | cmpImm | cmpReg | cmpRegShift
  | cmnImm | cmnReg | cmnRegShift => exact .dataTest ..
  | andImm | andReg | andRegShift | eorImm | eorReg | eorRegShift | subImm | subReg | subRegShift
  | rsbImm | rsbReg | rsbRegShift | addImm | addReg | addRegShift | adcImm | adcReg | adcRegShift
  | sbcImm | sbcReg | sbcRegShift | rscImm | rscReg | rscRegShift | orrImm | orrReg | orrRegShift
  | movImm | movReg | movRegShift | bicImm | bicReg | bicRegShift | mvnImm | mvnReg | mvnRegShift =>
    exact .dataProc ..
  | ldrtImm | ldrtReg | strtImm | strtReg | ldrbtImm | ldrbtReg | strbtImm | strbtReg
  | ldrImm | ldrReg | strImm | strReg | ldrbImm | ldrbReg | strbImm | strbReg => exact .singleTransfer ..
  | ldmia | ldmib | ldmda | ldmdb => exact .blockLoad ..
  | stmia | stmib | stmda | stmdb => exact .blockStore ..
  | b => exact .b ..
  | bl => exact .bl ..
  | ldc => exact .ldc ..
  | stc => exact .stc ..
  | cdp => exact .cdp ..
  | mrc => exact .mrc ..
  | mcr => exact .mcr ..

/-! ## The operations that leave the configuration as it was -/

@[simp] theorem State.finishLoad_cfg (s : State) (rd : Reg) (v : Word) : (s.finishLoad rd v).cfg = s.cfg := by
  unfold State.finishLoad; split <;> simp

@[simp] theorem State.setProduct_cfg (s : State) (sb : Bool) (rd : Reg) (v : Word) :
    (s.setProduct sb rd v).cfg = s.cfg := by
  unfold State.setProduct; dsimp only; split <;> simp

@[simp] theorem State.setLongProduct_cfg (s : State) (sb : Bool) (rh rl : Reg) (r : BitVec 64) :
    (s.setLongProduct sb rh rl r).cfg = s.cfg := by
  unfold State.setLongProduct; dsimp only; split <;> simp

@[simp] theorem State.storeAll_cfg (s : State) (l : List (Word × Word)) : (s.storeAll l).1.cfg = s.cfg := by
  have h := s.storeAll_onlyMemory l
  rw [onlyMemory] at h
  rw [h]

@[simp] theorem resetEvent_cfg (s : State) : (resetEvent s).cfg = s.cfg := rfl

theorem State.store_cfg {s t : State} {z : Size} {u : Bool} {a v : Word} (h : s.store z u a v = .ok t) :
    t.cfg = s.cfg := by
  rw [(State.store_ok h).2, State.put_cfg]

theorem State.writeR15_cfg {s t : State} {u : Refusal} {r : Bool} {v : Word} (h : s.writeR15 u r v = .ok t) :
    t.cfg = s.cfg := by
  rcases State.writeR15_ok h with ⟨-, rfl⟩ | ⟨-, -, rfl⟩ | ⟨-, -, _, _, -, -, -, rfl⟩ <;> rfl

theorem State.writeCpsr_cfg {s t : State} {a : PsrField} {v : Word} (h : s.writeCpsr a v = .ok t) :
    t.cfg = s.cfg := by
  unfold State.writeCpsr at h
  dsimp only at h
  split at h
  · split at h
    · cases h
    · split at h <;> cases h
      rfl
  · cases h; rfl

theorem State.writeSpsr_cfg {s t : State} {a : PsrField} {v : Word} (h : s.writeSpsr a v = .ok t) :
    t.cfg = s.cfg := by
  unfold State.writeSpsr at h
  split at h <;> cases h
  rfl

/-! ## The meanings that leave the configuration as it was -/

/-- The configuration after the operation is the one before it. -/
def KeepsCfg (m : State → Answer) : Prop := ∀ s, Ensures (m s) fun t => t.cfg = s.cfg

theorem takeException_keepsCfg (e : Exc) : KeepsCfg (takeException e) := by
  intro s t h
  rcases takeException_next h with ⟨-, rfl⟩ | ⟨-, -, rfl⟩ <;> simp

theorem conditional_keepsCfg {c : Cond} {body : State → Answer} (h : KeepsCfg body) :
    KeepsCfg fun s => conditional c s body := fun _ => ensures_conditional rfl fun _ => h _

theorem instruction_keepsCfg {c : Cond} {rs : List Reg} {body : State → Answer} (h : KeepsCfg body) :
    KeepsCfg fun s => instruction c rs s body := fun s =>
  ensures_instruction rfl fun _ => h { s with hazard := false }

theorem withCoproc_keepsCfg {i : Instr} {p : BitVec 4} {rs : List Reg} {body : Coproc → State → Answer}
    (h : ∀ k, KeepsCfg (body k)) : KeepsCfg fun s => withCoproc i p rs s body := fun s =>
  ensures_withCoproc (takeException_keepsCfg _ s) fun k _ => h k { s with hazard := false }

theorem ensures_andThen_cfg {α : Type} {s : State} {r : Except Stop α} {k : α → Answer}
    (h : ∀ a, r = .ok a → Ensures (k a) fun t => t.cfg = s.cfg) :
    Ensures (andThen s r k) fun t => t.cfg = s.cfg :=
  ensures_andThen (fun x _ => takeException_keepsCfg x s) h

/-- A stop part way through a run of stores is taken in the state the stores have left. -/
theorem ensures_stopWith_storeAll_cfg (s : State) (l : List (Word × Word)) (e : Stop) :
    Ensures (stopWith (s.storeAll l).1 e) fun t => t.cfg = s.cfg := by
  rw [← s.storeAll_cfg l]
  exact ensures_stopWith fun x _ => takeException_keepsCfg x _

section
variable {c : Cond} {sb p u n w : Bool} {rn rd rm : Reg}

theorem multiply_keepsCfg {named : List Reg} {result : State → Word} :
    KeepsCfg (multiply c sb rd rm named result) :=
  instruction_keepsCfg fun _ => ensures_refuseIf fun _ => by simp

theorem longMultiply_keepsCfg {signed accumulate : Bool} {rh rl rs : Reg} :
    KeepsCfg (longMultiply signed accumulate c sb rh rl rs rm) :=
  instruction_keepsCfg fun _ => ensures_refuseIf fun _ => by simp

theorem swap_keepsCfg {z : Size} : KeepsCfg (swap z c rn rd rm) :=
  instruction_keepsCfg fun _ =>
    ensures_ite (fun _ => ensures_refused _) fun _ =>
    ensures_ite (fun _ => ensures_refused _) fun _ =>
    ensures_andThen_cfg fun _ _ => ensures_andThen_cfg fun _ ht => by simp [State.store_cfg ht]

theorem execMrs_keepsCfg {spsr : Bool} : KeepsCfg (execMrs c spsr rd) :=
  instruction_keepsCfg fun _ => ensures_ite (fun _ => ensures_refused _) fun _ => by split <;> simp

theorem ensures_msr_cfg (s : State) (spsr : Bool) (a : PsrField) (v : Word) :
    Ensures (s.msr spsr a v) fun t => t.cfg = s.cfg :=
  ensures_andThen_cfg fun t ht => by
    cases spsr with
    | false => simpa using State.writeCpsr_cfg ht
    | true => simpa using State.writeSpsr_cfg ht

theorem dataProc_keepsCfg {op : AluOp} {o : Op2} : KeepsCfg (dataProc op c sb rn rd o) :=
  instruction_keepsCfg fun _ => ensures_refuseIf fun _ =>
    ensures_ite (fun _ => ensures_andThen_cfg fun _ ht => ensures_next.2 (State.writeR15_cfg ht)) fun _ => by simp

theorem dataTest_keepsCfg {op : AluOp} {o : Op2} : KeepsCfg (dataTest op c rn o) :=
  instruction_keepsCfg fun _ => ensures_refuseIf fun _ => ensures_next.2 rfl

theorem dataTestP_keepsCfg {op : AluOp} {o : Op2} : KeepsCfg (dataTestP op c rn o) :=
  instruction_keepsCfg fun _ =>
    ensures_ite (fun _ => ensures_refused _) fun _ => ensures_refuseIf fun _ => ensures_next.2 rfl

theorem singleTransfer_keepsCfg {l : Bool} {z : Size} {o : Offset} :
    KeepsCfg (singleTransfer l z c p u w rn rd o) :=
  instruction_keepsCfg fun _ => ensures_refuseIf fun _ =>
    ensures_ite (fun _ => ensures_refused _) fun _ =>
    ensures_ite (fun _ => ensures_andThen_cfg fun _ _ => by simp)
      fun _ => ensures_andThen_cfg fun _ ht => by simp [State.store_cfg ht]

theorem blockLoad_keepsCfg {list : BitVec 16} : KeepsCfg (blockLoad p u c sb w rn list) :=
  instruction_keepsCfg fun _ => ensures_refuseIf fun _ =>
    ensures_ite (fun _ => ensures_refused _) fun _ =>
    ensures_ite (fun _ => takeException_keepsCfg _ _) fun _ =>
    ensures_andThen_cfg fun _ _ =>
    ensures_ite (fun _ => ensures_andThen_cfg fun _ ht => by simp [State.writeR15_cfg ht]) fun _ => by simp

theorem blockStore_keepsCfg {list : BitVec 16} : KeepsCfg (blockStore p u c sb w rn list) :=
  instruction_keepsCfg fun _ => ensures_refuseIf fun _ =>
    ensures_ite (fun _ => ensures_refused _) fun _ =>
    ensures_ite (fun _ => takeException_keepsCfg _ _) fun _ => by
      dsimp only
      split
      · exact ensures_stopWith_storeAll_cfg _ _ _
      · simp

section
variable {opc crn crd cp crm : BitVec 4} {op q : BitVec 3} {off : BitVec 8}

theorem execCdp_keepsCfg : KeepsCfg (execCdp c opc crn crd cp q crm) :=
  conditional_keepsCfg (withCoproc_keepsCfg fun _ _ => ensures_next.2 rfl)

theorem execMrc_keepsCfg : KeepsCfg (execMrc c op crn rd cp q crm) :=
  conditional_keepsCfg (withCoproc_keepsCfg fun _ _ => by dsimp only; split <;> simp)

theorem execMcr_keepsCfg : KeepsCfg (execMcr c op crn rd cp q crm) :=
  conditional_keepsCfg fun _ => ensures_ite (fun _ => ensures_refused _) fun _ =>
    ensures_withCoproc (takeException_keepsCfg _ _) fun _ _ => ensures_next.2 rfl

theorem execLdc_keepsCfg : KeepsCfg (execLdc c p u n w rn crd cp off) :=
  conditional_keepsCfg (withCoproc_keepsCfg fun _ _ =>
    ensures_ite (fun _ => ensures_refused _) fun _ =>
    ensures_ite (fun _ => ensures_refused _) fun _ => ensures_andThen_cfg fun _ _ => by simp)

theorem execStc_keepsCfg : KeepsCfg (execStc c p u n w rn crd cp off) :=
  conditional_keepsCfg (withCoproc_keepsCfg fun _ _ =>
    ensures_ite (fun _ => ensures_refused _) fun _ =>
    ensures_ite (fun _ => ensures_refused _) fun _ => by
      dsimp only
      split
      · exact ensures_stopWith_storeAll_cfg _ _ _
      · simp)

end
end

/-- No meaning of an instruction writes the configuration. -/
theorem Meaning.keepsCfg {m : State → Answer} (h : Meaning m) : KeepsCfg m := by
  cases h with
  | multiply => exact multiply_keepsCfg
  | longMultiply => exact longMultiply_keepsCfg
  | swap => exact swap_keepsCfg
  | trap c e => exact instruction_keepsCfg (takeException_keepsCfg e)
  | mrs => exact execMrs_keepsCfg
  | msrReg =>
    exact instruction_keepsCfg fun s => ensures_ite (fun _ => ensures_refused _) fun _ => ensures_msr_cfg s _ _ _
  | msrImm => exact instruction_keepsCfg fun s => ensures_msr_cfg s _ _ _
  | dataProc => exact dataProc_keepsCfg
  | dataTest => exact dataTest_keepsCfg
  | dataTestP => exact dataTestP_keepsCfg
  | singleTransfer => exact singleTransfer_keepsCfg
  | blockLoad => exact blockLoad_keepsCfg
  | blockStore => exact blockStore_keepsCfg
  | b => exact instruction_keepsCfg fun s => ensures_next.2 rfl
  | bl => exact instruction_keepsCfg fun s => by simp
  | ldc => exact execLdc_keepsCfg
  | stc => exact execStc_keepsCfg
  | cdp => exact execCdp_keepsCfg
  | mrc => exact execMrc_keepsCfg
  | mcr => exact execMcr_keepsCfg

/-! ## The step -/

theorem runWord_keepsCfg (w : Word) : KeepsCfg (runWord w) := by
  intro s
  unfold runWord
  split
  · exact (exec_meaning _).keepsCfg s
  · exact conditional_keepsCfg (fun _ => ensures_refused _) s

theorem runInstruction_keepsCfg : KeepsCfg runInstruction := by
  intro s t h
  rcases runInstruction_next h with h | ⟨w, -, h⟩
  · exact takeException_keepsCfg _ s t h
  · exact runWord_keepsCfg w s t h

theorem step_keepsCfg : KeepsCfg step := by
  intro s
  rcases step_cases s with ⟨-, hs⟩ | ⟨-, -, hs⟩ | ⟨-, -, hs⟩ | hs <;> rw [hs]
  · exact ensures_next.2 rfl
  · exact takeException_keepsCfg .fiq s.sampled
  · exact takeException_keepsCfg .irq s.sampled
  · exact runInstruction_keepsCfg s.sampled

end Sys2Proof.Machine

/-- Settles O13: no shared operation writes the configuration, every instruction's meaning is built from these, and
the step adds the fetch, the interrupts and the reset event, which do not write it either. -/
theorem configurationNeverChanges : Obligations.ConfigurationNeverChanges :=
  Sys2Proof.Machine.step_keepsCfg

end

section
/-!
PROOF. Every word that decodes is an instruction of the part (30_encoding R125).
-/

namespace Sys2Proof

section
variable {v : Variant} {c : Cond} {w : Word} {i : Instr}

theorem decodeExtension_wellFormed (h : decodeExtension v c w = .ok i) : WellFormed v i = true := by
  revert h
  fun_cases decodeExtension v c w <;> intro h <;> cases h <;> simp_all [WellFormed]

theorem decodePsrSpace_wellFormed (h : decodePsrSpace v c w = .ok i) : WellFormed v i = true := by
  revert h
  fun_cases decodePsrSpace v c w <;> intro h <;> cases h <;> assumption

/-- A test whose Rd field is 1111 is read as the P form (30_encoding R126). -/
theorem decodeDpImm_wellFormed : WellFormed v (decodeDpImm c w) = true := by
  fun_cases decodeDpImm c w <;> simp_all [WellFormed]

theorem decodeDpReg_wellFormed : WellFormed v (decodeDpReg c w) = true := by
  fun_cases decodeDpReg c w <;> simp_all [WellFormed]

theorem decodeDpRegShift_wellFormed : WellFormed v (decodeDpRegShift c w) = true := by
  fun_cases decodeDpRegShift c w <;> simp_all [WellFormed]

/-- A transfer with P = 0 and W = 1 is read as the T form (30_encoding R126). -/
theorem decodeTransferImm_wellFormed : WellFormed v (decodeTransferImm c w) = true := by
  fun_cases decodeTransferImm c w <;> simp_all [WellFormed, or_iff_not_imp_left]

theorem decodeTransferReg_wellFormed : WellFormed v (decodeTransferReg c w) = true := by
  fun_cases decodeTransferReg c w <;> simp_all [WellFormed, or_iff_not_imp_left]

theorem decodeBlock_wellFormed : WellFormed v (decodeBlock c w) = true := by
  fun_cases decodeBlock c w <;> rfl

theorem decodeCoprocessor_wellFormed : WellFormed v (decodeCoprocessor c w) = true := by
  fun_cases decodeCoprocessor c w <;> rfl

/-- A word decodes only to an instruction that the part has. -/
theorem decode_wellFormed (h : decode v w = .ok i) : WellFormed v i = true := by
  revert h
  fun_cases decode v w with
  | case1 => exact decodeExtension_wellFormed
  | case2 | case5 => exact decodePsrSpace_wellFormed
  | case3 => rintro ⟨⟩; exact decodeDpRegShift_wellFormed
  | case4 => rintro ⟨⟩; exact decodeDpReg_wellFormed
  | case6 => rintro ⟨⟩; exact decodeDpImm_wellFormed
  | case7 => rintro ⟨⟩; exact decodeTransferImm_wellFormed
  | case9 => rintro ⟨⟩; exact decodeTransferReg_wellFormed
  | case10 => rintro ⟨⟩; exact decodeBlock_wellFormed
  | case15 => rintro ⟨⟩; exact decodeCoprocessor_wellFormed
  | case8 | case11 | case12 | case13 | case14 => rintro ⟨⟩; rfl

end

end Sys2Proof
end

section
/-!
PROOF. The registers of 10_state R21 to R28: the bank that a name stands in, what a write changes, and what R15 reads as.
-/

namespace Sys2Proof.Machine

/-! ## The bank of a register -/

/-- The bank that a physical register stands in; R0 to R14 of user mode stand in none (10_state R22). -/
def PReg.bank : PReg → Option ExcBank
  | .usr _ => none
  | .fiq _ => some .fiq
  | .irq _ => some .irq
  | .svc _ => some .svc
  | .abt _ => some .abt
  | .und _ => some .und

/-- The register that user mode sees under a name (10_state R21). -/
def userPReg (r : Reg) : PReg := .usr (Fin.ofNat 15 r.toNat)

/-- A mode sees under a name a register of its own bank, or the one that user mode sees. -/
theorem Mode.preg_own_or_user {m : Mode} {r : Reg} {p : PReg} (h : m.preg r = some p) :
    (p.bank = m.bank ∧ m.bank ≠ none) ∨ p = userPReg r := by
  have table : ∀ r : Reg, ∀ p ∈ m.preg r, (p.bank = m.bank ∧ m.bank ≠ none) ∨ p = userPReg r := by
    cases m <;> decide
  exact table r p h

/-- The table of 10_state R21, mode by mode. -/
theorem Mode.preg_table : ∀ r : Reg, r ≠ 15#4 →
    Mode.usr26.preg r = some (userPReg r) ∧
    Mode.fiq26.preg r = (if r.toNat < 8 then some (userPReg r) else some (.fiq (Fin.ofNat 7 (r.toNat - 8)))) ∧
    Mode.irq26.preg r = (if r.toNat < 13 then some (userPReg r) else some (.irq (Fin.ofNat 2 (r.toNat - 13)))) ∧
    Mode.svc26.preg r = (if r.toNat < 13 then some (userPReg r) else some (.svc (Fin.ofNat 2 (r.toNat - 13)))) ∧
    Mode.abt32.preg r = (if r.toNat < 13 then some (userPReg r) else some (.abt (Fin.ofNat 2 (r.toNat - 13)))) ∧
    Mode.und32.preg r = (if r.toNat < 13 then some (userPReg r) else some (.und (Fin.ofNat 2 (r.toNat - 13)))) := by
  decide

theorem Mode.preg_bank {m : Mode} {r : Reg} {p : PReg} (h : m.preg r = some p) : p.bank = m.bank ∨ p.bank = none := by
  rcases Mode.preg_own_or_user h with ⟨hb, -⟩ | rfl
  · exact .inl hb
  · exact .inr rfl

/-- Two modes that see one register see it in their common bank, or as a register of user mode. -/
theorem Mode.preg_shared {m m' : Mode} {q r : Reg} (hr : r ≠ 15#4) (h : m.preg q = m'.preg r) :
    m.bank = m'.bank ∨ m.preg q = some (userPReg r) := by
  obtain ⟨p, hp⟩ := m'.exists_preg r hr
  rw [hp] at h
  rcases Mode.preg_own_or_user hp with ⟨hb', hne⟩ | rfl
  · rcases Mode.preg_bank h with hb | hb
    · exact .inl (hb.symm.trans hb')
    · exact absurd (hb'.symm.trans hb) hne
  · exact .inr h

/-! ## Reads and writes -/

theorem State.onlyRegs_setReg (s : State) (r : Reg) (v : Word) : onlyRegs s (s.setReg r v) [r] := fun p hp => by
  rw [State.setReg_read, if_neg (hp r List.mem_cons_self)]

theorem State.userReg_setUserReg_same (s : State) (r : Reg) (v : Word) (h : r ≠ 15#4) :
    (s.setUserReg r v).userReg r = v := by
  obtain ⟨p, hp⟩ := Mode.exists_preg .usr32 r h
  simp [State.userReg, hp, State.setUserReg_read]

theorem State.setUserReg_read_other (s : State) (r : Reg) (v : Word) {p : PReg} (h : Mode.usr32.preg r ≠ some p) :
    (s.setUserReg r v).regs.read p = s.regs.read p := by
  rw [State.setUserReg_read, if_neg h]

/-! ## R15 -/

/-- The PSR in R15 of a 26-bit mode, bit by bit (10_state R26). -/
theorem State.r15With_flags (s : State) (a : Word) :
    (s.r15With a).getLsbD 31 = s.psr.n ∧ (s.r15With a).getLsbD 30 = s.psr.z ∧ (s.r15With a).getLsbD 29 = s.psr.c ∧
    (s.r15With a).getLsbD 28 = s.psr.v ∧ (s.r15With a).getLsbD 27 = s.psr.i ∧ (s.r15With a).getLsbD 26 = s.psr.f := by
  simp only [State.r15With, BitVec.getLsbD_append]
  simp

theorem State.r15With_mode (s : State) (a : Word) :
    (s.r15With a).extractLsb' 0 2 = s.psr.mode.bits.extractLsb' 0 2 :=
  BitVec.extractLsb'_append_eq_right

/-- The PC field in R15 of a 26-bit mode (10_state R26). -/
theorem State.r15With_pc (s : State) (a : Word) : s.r15With a &&& 0x03FFFFFC#32 = a &&& 0x03FFFFFC#32 := by
  ext i hi
  simp only [State.r15With, field, BitVec.getElem_and, BitVec.getElem_append, BitVec.getElem_extractLsb']
  interval_cases i <;> simp

/-- The two low bits of a 26-bit mode's number name the mode (10_state R26, R35). -/
theorem Mode.ofR15_bits {m : Mode} (h : m.is26 = true) : Mode.ofR15 (m.bits.extractLsb' 0 2) = m := by
  revert h
  cases m <;> decide

theorem State.pcRead_26 {s : State} (h : s.mode26 = true) : s.pcRead = (s.pc + 8#32) &&& 0x03FFFFFC#32 := by
  simp [State.pcRead, h]

theorem State.pcRead_32 {s : State} (h : s.mode26 = false) : s.pcRead = s.pc + 8#32 := by
  simp [State.pcRead, h]

theorem State.rmValue_fifteen_26 {s : State} (h : s.mode26 = true) : s.rmValue 15#4 = s.r15With (s.pc + 8#32) := by
  simp [State.rmValue, State.r15Full, h]

theorem State.rmValue_fifteen_32 {s : State} (h : s.mode26 = false) : s.rmValue 15#4 = s.pc + 8#32 := by
  simp [State.rmValue, h, State.pcRead_32 h]

theorem State.rmValue_of_ne (s : State) {rm : Reg} (h : rm ≠ 15#4) : s.rmValue rm = s.reg rm := if_neg h

end Sys2Proof.Machine

open Sys2Proof.Machine in
/-- Settles O59: a mode sees under a name a register of its own bank or the one of user mode, by the table. -/
theorem bankedRegisters : Obligations.BankedRegisters := by
  intro r hr
  obtain ⟨husr, hfiq, hirq, hsvc, habt, hund⟩ := Mode.preg_table r hr
  exact ⟨husr, hfiq, hirq, hsvc, habt, hund, fun _ _ _ => Mode.preg_shared hr, State.reg_fifteen⟩

open Sys2Proof.Machine in
/-- Settles O60: the names of a mode are different registers, and a write is of the one register named. -/
theorem registerReadsAndWrites : Obligations.RegisterReadsAndWrites :=
  ⟨fun m r q _ hr hq => (m.preg_injective r q).1 (hr.trans hq.symm),
    fun _ => ⟨rfl, rfl, rfl, rfl⟩,
    fun s r v hr => ⟨s.reg_setReg_same r v hr, s.onlyRegs_setReg r v, s.userReg_setUserReg_same r v hr,
      fun _ => s.setUserReg_read_other r v⟩⟩

open Sys2Proof.Machine in
/-- Settles O34: R15 of a 26-bit mode field by field, as Rm in full and as another operand the PC field alone. -/
theorem r15Reads : Obligations.R15Reads := by
  refine fun s => ⟨fun h32 => ⟨State.pcRead_32 h32, State.rmValue_fifteen_32 h32⟩, fun h26 => ?_,
    fun _ => s.rmValue_of_ne⟩
  obtain ⟨hn, hz, hc, hv, hi, hf⟩ := s.r15With_flags (s.pc + 8#32)
  rw [State.rmValue_fifteen_26 h26, s.r15With_mode]
  exact ⟨State.pcRead_26 h26, s.r15With_pc _, hn, hz, hc, hv, hi, hf, Mode.ofR15_bits h26⟩
end

section
/-!
PROOF. The elementary updates of the state that instructions and exceptions are made of; every step but the reset
event is a sequence of them. What each update keeps, every such step keeps: the invariant (10_state R44), and on a
part without the 32-bit modes the registers and SPSRs that only the later parts have (10_state R22).
-/

namespace Sys2Proof.Machine

/-! ## Elementary updates -/

/-- One elementary update of the state. The conditions of `control` are those under which `pc` and the PSR may be
written; a memory update is aligned and in range; SPSRs are written only on a part that has them. -/
inductive State.Update (s : State) : State → Prop
  | setReg (r : Reg) (v : Word) : Update s (s.setReg r v)
  | setUserReg (r : Reg) (v : Word) : Update s (s.setUserReg r v)
  | control (p : Psr) (a : Word) (hmode : s.modeFits = true → ({ s with psr := p } : State).modeFits = true)
      (hpc : s.pcFits = true → ({ s with psr := p, pc := a } : State).pcFits = true) :
      Update s { s with psr := p, pc := a }
  | put (z : Size) (a v : Word) (hfit : z.fits a = true) (hrange : a.toNat < 2 ^ s.cfg.variant.addrBits) :
      Update s (s.put z a v)
  | setSpsrs (x : Spsrs) (hpart : s.cfg.variant.hasPsr32 = true) : Update s { s with spsrs := x }
  | other (b : Bool) (i : List Inputs) (k : Vector (Option Coproc) 16) (n : Nat) :
      Update s { s with hazard := b, inputs := i, cps := k, draws := n }

/-- A state that a sequence of elementary updates makes of `s`. -/
def State.Reaches : State → State → Prop := Relation.ReflTransGen State.Update

section
variable {s t u : State}

theorem State.Update.reaches (h : s.Update t) : s.Reaches t := .single h

@[refl] theorem State.Reaches.refl (s : State) : s.Reaches s := Relation.ReflTransGen.refl

theorem State.Reaches.trans (h : s.Reaches t) (h' : t.Reaches u) : s.Reaches u := Relation.ReflTransGen.trans h h'

/-- What every update keeps, a sequence of updates keeps. -/
theorem State.Reaches.keeps {P : State → Prop} (hP : ∀ s t : State, s.Update t → P s → P t) (h : s.Reaches t)
    (hs : P s) : P t := by
  induction h with
  | refl => exact hs
  | tail _ hu ih => exact hP _ _ hu ih

/-! ## The operations of the model as updates -/

theorem State.reaches_setReg (s : State) (r : Reg) (v : Word) : s.Reaches (s.setReg r v) :=
  (Update.setReg r v).reaches

theorem State.reaches_hazard (s : State) (b : Bool) : s.Reaches { s with hazard := b } :=
  (Update.other b s.inputs s.cps s.draws).reaches

theorem State.reaches_setCoproc (s : State) (p : BitVec 4) (k : Coproc) : s.Reaches (s.setCoproc p k) :=
  (Update.other s.hazard s.inputs _ s.draws).reaches

theorem State.reaches_drawn (s : State) (n : Nat) : s.Reaches (s.drawn n) :=
  (Update.other s.hazard s.inputs s.cps _).reaches

theorem State.reaches_sampled (s : State) : s.Reaches s.sampled :=
  (Update.other s.hazard _ s.cps s.draws).reaches

theorem State.reaches_flags (s : State) (n z c v : Bool) :
    s.Reaches { s with psr := { s.psr with n := n, z := z, c := c, v := v } } :=
  (Update.control { s.psr with n := n, z := z, c := c, v := v } s.pc id id).reaches

/-- The mode changes to one of the part, and `pc` goes where it may stand in the new mode. -/
theorem State.reaches_control (s : State) (p : Psr) (a : Word)
    (hmode : s.modeFits = true → (s.cfg.variant.hasPsr32 || p.mode.is26) = true)
    (hpc : s.pc.toNat % 4 = 0 → a.toNat % 4 = 0 ∧ (p.mode.is26 = true → a.toNat < 2 ^ 26)) :
    s.Reaches { s with psr := p, pc := a } :=
  (Update.control p a hmode fun h => (State.pcFits_iff _).2 (hpc ((State.pcFits_iff s).1 h).1)).reaches

theorem State.reaches_pc (s : State) (a : Word)
    (h : s.pc.toNat % 4 = 0 → a.toNat % 4 = 0 ∧ (s.psr.mode.is26 = true → a.toNat < 2 ^ 26)) :
    s.Reaches { s with pc := a } :=
  s.reaches_control s.psr a id h

theorem State.reaches_advance (s : State) : s.Reaches s.advance := s.reaches_pc _ s.successor_fits

theorem State.reaches_writePc (s : State) (v : Word) : s.Reaches (s.writePc v) :=
  s.reaches_pc _ fun _ => s.pcTarget_fits v

/-- `pc` goes on in the mode just written. -/
theorem State.reaches_psr_advance (s : State) (p : Psr) (b : Bool)
    (h : s.modeFits = true → (s.cfg.variant.hasPsr32 || p.mode.is26) = true) :
    s.Reaches ({ s with psr := p, hazard := b } : State).advance :=
  (s.reaches_control p _ h ({ s with psr := p } : State).successor_fits).trans (State.reaches_hazard _ b)

theorem State.reaches_setResult (s : State) (sb : Bool) (rd : Reg) (r : AluResult) :
    s.Reaches (s.setResult sb rd r) := by
  cases sb with
  | false => exact s.reaches_setReg rd _
  | true => exact (s.reaches_setReg rd _).trans (State.reaches_flags ..)

theorem State.reaches_setProduct (s : State) (sb : Bool) (rd : Reg) (v : Word) :
    s.Reaches (s.setProduct sb rd v) := by
  cases sb with
  | false => exact s.reaches_setReg rd _
  | true =>
    exact .trans (.trans (s.reaches_setReg rd v) (State.reaches_flags ..)) (State.reaches_drawn _ 1)

theorem State.reaches_setLongProduct (s : State) (sb : Bool) (rh rl : Reg) (r : BitVec 64) :
    s.Reaches (s.setLongProduct sb rh rl r) := by
  have h : s.Reaches ((s.setReg rl (r.extractLsb' 0 32)).setReg rh (r.extractLsb' 32 32)) :=
    (s.reaches_setReg rl _).trans (State.reaches_setReg _ rh _)
  cases sb with
  | false => exact h
  | true =>
    exact .trans (.trans h (State.reaches_flags ..)) (State.reaches_drawn _ 1)

theorem State.reaches_writeBack (s : State) (p w : Bool) (rn : Reg) (v : Word) : s.Reaches (s.writeBack p w rn v) := by
  unfold State.writeBack
  split
  · exact s.reaches_setReg rn v
  · rfl

theorem State.reaches_blockBack (s : State) (w : Bool) (rn : Reg) (v : Word) : s.Reaches (s.blockBack w rn v) := by
  unfold State.blockBack
  split
  · exact s.reaches_setReg rn v
  · rfl

theorem State.reaches_finishLoad (s : State) (rd : Reg) (v : Word) : s.Reaches (s.finishLoad rd v) := by
  unfold State.finishLoad
  split
  · exact s.reaches_writePc v
  · exact (s.reaches_setReg rd v).trans (State.reaches_advance _)

theorem State.reaches_finishBlock (s : State) (user : Bool) : s.Reaches (s.finishBlock user) :=
  (s.reaches_hazard _).trans (State.reaches_advance _)

theorem State.reaches_blockLoadReg (s : State) (user : Bool) (x : Reg × Word) :
    s.Reaches (State.blockLoadReg user s x) := by
  fun_cases State.blockLoadReg user s x with
  | case1 => rfl
  | case2 => exact (Update.setUserReg _ _).reaches
  | case3 => exact s.reaches_setReg _ _

theorem State.reaches_blockLoadRegs (s : State) (user : Bool) (l : List (Reg × Word)) :
    s.Reaches (s.blockLoadRegs user l) := by
  unfold State.blockLoadRegs
  induction l generalizing s with
  | nil => rfl
  | cons x l ih => exact (s.reaches_blockLoadReg user x).trans (ih _)

theorem State.reaches_store {z : Size} {user : Bool} {a v : Word} (hfit : z.fits a = true)
    (h : s.store z user a v = .ok t) : s.Reaches t := by
  obtain ⟨ha, rfl⟩ := State.store_ok h
  exact (Update.put z a v hfit (State.access_none_range (by decide) ha)).reaches

/-- Words stored at aligned addresses, stopped or not. -/
theorem State.reaches_storeAll (s : State) (addrs vals : List Word) (h : ∀ a ∈ addrs, Word.aligned a = true) :
    s.Reaches (s.storeAll (addrs.zip vals)).1 :=
  State.storeAll_keeps s.Reaches _ s (.refl s) fun _ _ ht x hx ha =>
    ht.trans (Update.put .word x.1 x.2 (h x.1 (List.of_mem_zip hx).1) (State.access_none_range (by decide) ha)).reaches

/-- A write of R15 with the PSR names a 26-bit mode from a 26-bit mode (60_exceptions R370). -/
theorem State.reaches_writeR15 {r : Refusal} {b : Bool} {v : Word} (h : s.writeR15 r b v = .ok t) : s.Reaches t := by
  rcases State.writeR15_ok h with ⟨-, rfl⟩ | ⟨-, h26, rfl⟩ | ⟨-, h32, bank, m, -, -, hpc, rfl⟩
  · exact s.reaches_writePc v
  · exact s.reaches_control _ _ (fun _ => by simp [Psr.writeR15_is26 s.psr v h26])
      fun _ => ⟨(s.pcTarget_fits v).1, fun _ => (s.pcTarget_fits v).2 h26⟩
  · refine s.reaches_control ((s.spsrs.read bank).restore m) _ (fun hs => ?_) fun _ => ⟨(s.pcTarget_fits v).1, hpc⟩
    have hpart : s.cfg.variant.hasPsr32 = true := by simpa [State.modeFits, h32] using hs
    simp [hpart]

/-! ## Exceptions -/

/-- Entry is a change of mode and `pc`, then a write of R14 of the mode entered. -/
theorem State.enter_eq (s : State) (e : Exc) (link : Word) : s.enter e link =
    ({ s with
      psr := { s.psr with mode := e.mode s.cfg.entry32, i := true, f := s.psr.f || decide (e = .fiq) }
      pc := e.vector
      hazard := false } : State).setReg 14#4 link := by
  unfold State.enter State.setReg
  dsimp only
  split <;> rfl

theorem Exc.vector_fits (e : Exc) : e.vector.toNat % 4 = 0 ∧ e.vector.toNat < 2 ^ 26 := by
  cases e <;> decide

theorem Exc.mode_fits (e : Exc) (s : State) : (s.cfg.variant.hasPsr32 || (e.mode s.cfg.entry32).is26) = true := by
  cases h : s.cfg.entry32 with
  | true => simp [entry32_hasPsr32 h]
  | false => simp [e.mode_is26]

theorem State.reaches_enter (s : State) (e : Exc) (link : Word) : s.Reaches (s.enter e link) := by
  rw [State.enter_eq]
  obtain ⟨hword, hrange⟩ := e.vector_fits
  refine .trans (.trans (s.reaches_control _ _ (fun _ => ?_) fun _ => ⟨hword, fun _ => hrange⟩)
    (State.reaches_hazard _ false)) (State.reaches_setReg _ 14#4 link)
  exact e.mode_fits s

theorem State.reaches_losesSpsr (s : State) (b : ExcBank) : s.Reaches (s.losesSpsr b) := by
  unfold State.losesSpsr
  split
  · next hpart => exact (Update.setSpsrs _ hpart).reaches.trans (State.reaches_drawn _ 1)
  · rfl

/-- The next state, if the meaning answers one, is made by elementary updates. -/
def Updates (m : State → Answer) : Prop := ∀ s, Ensures (m s) s.Reaches

theorem takeException_updates (e : Exc) : Updates (takeException e) := by
  intro s t h
  rcases takeException_next h with ⟨h32, rfl⟩ | ⟨-, -, rfl⟩
  · exact (s.reaches_enter e _).trans (State.Update.setSpsrs _ (by simpa using entry32_hasPsr32 h32)).reaches
  · exact (s.reaches_enter e _).trans (State.reaches_losesSpsr _ _)

/-! ## The frame of an instruction -/

theorem Ensures.after {a : Answer} (ha : Ensures a t.Reaches) (h : s.Reaches t) : Ensures a s.Reaches :=
  fun u hu => h.trans (ha u hu)

theorem State.reaches_skip (s : State) : s.Reaches { s with pc := s.successor, hazard := false } :=
  s.reaches_advance.trans (State.reaches_hazard _ false)

theorem conditional_updates {c : Cond} {body : State → Answer} (h : Updates body) :
    Updates fun s => conditional c s body := fun s =>
  ensures_conditional s.reaches_skip fun _ => h s

theorem ensures_instruction_reaches {c : Cond} {rs : List Reg} {body : State → Answer}
    (h : Ensures (body { s with hazard := false }) ({ s with hazard := false } : State).Reaches) :
    Ensures (instruction c rs s body) s.Reaches :=
  ensures_instruction s.reaches_skip fun _ => h.after (s.reaches_hazard false)

theorem instruction_updates {c : Cond} {rs : List Reg} {body : State → Answer} (h : Updates body) :
    Updates fun s => instruction c rs s body := fun _ => ensures_instruction_reaches (h _)

theorem withCoproc_updates {i : Instr} {p : BitVec 4} {rs : List Reg} {body : Coproc → State → Answer}
    (h : ∀ k, Updates (body k)) : Updates fun s => withCoproc i p rs s body := fun s =>
  ensures_withCoproc (takeException_updates _ s) fun k _ => (h k _).after (s.reaches_hazard false)

/-- A stop is taken in the state `s`, and what follows a value starts from there too. -/
theorem ensures_andThen_reaches {α : Type} {r : Except Stop α} {k : α → Answer}
    (h : ∀ a, r = .ok a → Ensures (k a) s.Reaches) : Ensures (andThen s r k) s.Reaches :=
  ensures_andThen (fun x _ => takeException_updates x s) h

theorem ensures_stopWith_reaches (s : State) (e : Stop) : Ensures (stopWith s e) s.Reaches :=
  ensures_stopWith fun x _ => takeException_updates x s

end

/-! ## The meanings of the instructions -/

section
variable {c : Cond} {sb p u n w : Bool} {rn rd rm : Reg}

theorem multiply_updates {named : List Reg} {result : State → Word} :
    Updates (multiply c sb rd rm named result) :=
  instruction_updates fun _ => ensures_refuseIf fun _ => ensures_next.2 <|
    (State.reaches_setProduct ..).trans (State.reaches_advance _)

theorem longMultiply_updates {signed accumulate : Bool} {rh rl rs : Reg} :
    Updates (longMultiply signed accumulate c sb rh rl rs rm) :=
  instruction_updates fun _ => ensures_refuseIf fun _ => ensures_next.2 <|
    (State.reaches_setLongProduct ..).trans (State.reaches_advance _)

theorem swap_updates {z : Size} : Updates (swap z c rn rd rm) :=
  instruction_updates fun _ =>
    ensures_ite (fun _ => ensures_refused _) fun _ =>
    ensures_ite (fun _ => ensures_refused _) fun hfit =>
    ensures_andThen_reaches fun _ _ => ensures_andThen_reaches fun _ ht => ensures_next.2 <|
      ((State.reaches_store (by simpa using hfit) ht).trans (State.reaches_setReg ..)).trans (State.reaches_advance _)

theorem trap_updates {e : Exc} : Updates fun s => instruction c [] s (takeException e) :=
  instruction_updates fun _ => takeException_updates e _

theorem execMrs_updates {spsr : Bool} : Updates (execMrs c spsr rd) :=
  instruction_updates fun _ => ensures_ite (fun _ => ensures_refused _) fun _ => by
    split
    · exact ensures_refused _
    · exact ensures_next.2 <|
        ((State.reaches_drawn _ 1).trans (State.reaches_setReg ..)).trans (State.reaches_advance _)

theorem dataProc_updates {op : AluOp} {o : Op2} : Updates (dataProc op c sb rn rd o) :=
  instruction_updates fun _ => ensures_refuseIf fun _ =>
    ensures_ite (fun _ => ensures_andThen_reaches fun _ ht => ensures_next.2 (State.reaches_writeR15 ht)) fun _ =>
      ensures_next.2 <| (State.reaches_setResult ..).trans (State.reaches_advance _)

theorem dataTest_updates {op : AluOp} {o : Op2} : Updates (dataTest op c rn o) :=
  instruction_updates fun _ => ensures_refuseIf fun _ => ensures_next.2 <|
    (State.reaches_flags ..).trans (State.reaches_advance _)

theorem dataTestP_updates {op : AluOp} {o : Op2} : Updates (dataTestP op c rn o) :=
  instruction_updates fun s => ensures_ite (fun _ => ensures_refused _) fun h26 => ensures_refuseIf fun _ =>
    ensures_next.2 <| s.reaches_psr_advance _ _ fun _ => by
      simp [Psr.writeR15_is26 s.psr _ (show s.mode26 = true by simpa using h26)]

theorem singleTransfer_updates {l : Bool} {z : Size} {o : Offset} :
    Updates (singleTransfer l z c p u w rn rd o) :=
  instruction_updates fun _ => ensures_refuseIf fun _ =>
    ensures_ite (fun _ => ensures_refused _) fun hfit =>
    ensures_ite
      (fun _ => ensures_andThen_reaches fun _ _ => ensures_next.2 <|
        (State.reaches_writeBack ..).trans (State.reaches_finishLoad ..))
      fun _ => ensures_andThen_reaches fun _ ht => ensures_next.2 <|
        ((State.reaches_store (by simpa using hfit) ht).trans (State.reaches_writeBack ..)).trans
          (State.reaches_advance _)

theorem blockLoad_updates {list : BitVec 16} : Updates (blockLoad p u c sb w rn list) :=
  instruction_updates fun _ => ensures_refuseIf fun _ =>
    ensures_ite (fun _ => ensures_refused _) fun _ =>
    ensures_ite (fun _ => takeException_updates _ _) fun _ =>
    ensures_andThen_reaches fun _ _ =>
    have hregs := (State.reaches_blockBack ..).trans (State.reaches_blockLoadRegs ..)
    ensures_ite
      (fun _ => ensures_andThen_reaches fun _ ht => ensures_next.2 <| hregs.trans (State.reaches_writeR15 ht))
      fun _ => ensures_next.2 <| hregs.trans (State.reaches_finishBlock ..)

theorem State.blockAddrs_aligned {s : State} {list : BitVec 16} (h : Word.aligned (s.reg rn) = true) :
    ∀ a ∈ s.blockAddrs p u rn list, Word.aligned a = true := by
  intro a ha
  rw [State.blockAddrs_eq] at ha
  obtain ⟨r, -, rfl⟩ := List.mem_map.1 ha
  exact blockWordAddr_aligned p u _ list r h

theorem blockStore_updates {list : BitVec 16} : Updates (blockStore p u c sb w rn list) :=
  instruction_updates fun s => ensures_refuseIf fun _ =>
    ensures_ite (fun _ => ensures_refused _) fun hfit =>
    ensures_ite (fun _ => takeException_updates _ _) fun _ => by
      have hstore := s.reaches_storeAll _ ((listRegs list).map (s.blockValue (userBank false sb list) rn))
        (State.blockAddrs_aligned (p := p) (u := u) (list := list) (by simpa using hfit))
      dsimp only
      split
      · exact (ensures_stopWith_reaches _ _).after hstore
      · exact ensures_next.2 <| .trans (.trans hstore (State.reaches_blockBack ..)) (State.reaches_finishBlock ..)

theorem State.branchTarget_fits (s : State) (off : BitVec 24) (h : s.pc.toNat % 4 = 0) :
    (s.branchTarget off).toNat % 4 = 0 ∧ (s.psr.mode.is26 = true → (s.branchTarget off).toNat < 2 ^ 26) := by
  have hword : (s.pc + 8#32 + 4#32 * off.signExtend 32).toNat % 4 = 0 := by
    simp only [BitVec.toNat_add, BitVec.toNat_mul, BitVec.toNat_ofNat]
    omega
  unfold State.branchTarget State.mode26
  dsimp only
  split
  · rw [and_26_toNat]; omega
  · next h32 => exact ⟨hword, fun h26 => absurd h26 h32⟩

theorem execB_updates {off : BitVec 24} : Updates (execB c off) :=
  instruction_updates fun s => ensures_next.2 <| s.reaches_pc _ (s.branchTarget_fits off)

theorem execBl_updates {off : BitVec 24} : Updates (execBl c off) :=
  instruction_updates fun s => ensures_next.2 <|
    (s.reaches_setReg ..).trans (State.reaches_pc _ _ (by simpa using s.branchTarget_fits off))

section
variable {opc crn crd cp crm : BitVec 4} {op q : BitVec 3} {off : BitVec 8}

theorem execCdp_updates : Updates (execCdp c opc crn crd cp q crm) :=
  conditional_updates <| withCoproc_updates fun _ s =>
    ensures_next.2 <| (s.reaches_setCoproc ..).trans (State.reaches_advance _)

/-- MRC into R15 writes the flags alone (47_coprocessor R308). -/
theorem execMrc_updates : Updates (execMrc c op crn rd cp q crm) :=
  conditional_updates <| withCoproc_updates fun k s => by
    have hcp := s.reaches_setCoproc cp (Config.cpMrcState cp k (lowBits (.mrc c op crn rd cp q crm)))
    refine ensures_next.2 (.trans (.trans hcp ?_) (State.reaches_advance _))
    split
    · exact State.reaches_flags ..
    · exact State.reaches_setReg ..

theorem execMcr_updates : Updates (execMcr c op crn rd cp q crm) :=
  conditional_updates fun s => ensures_ite (fun _ => ensures_refused _) fun _ =>
    withCoproc_updates (fun _ s => ensures_next.2 <| (s.reaches_setCoproc ..).trans (State.reaches_advance _)) s

theorem execLdc_updates : Updates (execLdc c p u n w rn crd cp off) :=
  conditional_updates <| withCoproc_updates fun _ s =>
    ensures_ite (fun _ => ensures_refused _) fun _ =>
    ensures_ite (fun _ => ensures_refused _) fun _ => ensures_andThen_reaches fun _ _ => ensures_next.2 <|
      ((s.reaches_writeBack ..).trans (State.reaches_setCoproc ..)).trans (State.reaches_advance _)

theorem wordAddrs_aligned {a : Word} (h : Word.aligned a = true) (n : Nat) :
    ∀ b ∈ wordAddrs a n, Word.aligned b = true := by
  intro b hb
  rw [wordAddrs_eq] at hb
  obtain ⟨j, -, rfl⟩ := List.mem_map.1 hb
  exact Word.aligned_add a j h

theorem execStc_updates : Updates (execStc c p u n w rn crd cp off) :=
  conditional_updates <| withCoproc_updates fun k s =>
    ensures_ite (fun _ => ensures_refused _) fun _ =>
    ensures_ite (fun _ => ensures_refused _) fun hfit => by
      have hstore := fun m vs => s.reaches_storeAll _ vs (wordAddrs_aligned (by simpa using hfit) m)
      dsimp only
      split
      · exact (ensures_stopWith_reaches _ _).after (hstore _ _)
      · exact ensures_next.2 <| .trans (.trans (.trans (hstore _ _) (State.reaches_writeBack ..))
          (State.reaches_setCoproc ..)) (State.reaches_advance _)

end

/-! ## The status register transfers, on a part that has them -/

theorem State.reaches_writeCpsr_advance {s t : State} {a : PsrField} {v : Word}
    (hpart : s.cfg.variant.hasPsr32 = true) (h : s.writeCpsr a v = .ok t) : s.Reaches t.advance := by
  unfold State.writeCpsr at h
  dsimp only at h
  have hmode : ∀ p : Psr, s.modeFits = true → (s.cfg.variant.hasPsr32 || p.mode.is26) = true := by simp [hpart]
  split at h
  · split at h
    · cases h
    · split at h <;> cases h
      exact s.reaches_psr_advance _ s.hazard (hmode _)
  · cases h
    exact s.reaches_psr_advance _ s.hazard (hmode _)

theorem State.reaches_writeSpsr {s t : State} {a : PsrField} {v : Word}
    (hpart : s.cfg.variant.hasPsr32 = true) (h : s.writeSpsr a v = .ok t) : s.Reaches t := by
  unfold State.writeSpsr at h
  split at h <;> cases h
  exact (Update.setSpsrs _ hpart).reaches

theorem ensures_msr_reaches {s : State} {spsr : Bool} {a : PsrField} {v : Word}
    (hpart : s.cfg.variant.hasPsr32 = true) : Ensures (s.msr spsr a v) s.Reaches :=
  ensures_andThen_reaches fun t ht => ensures_next.2 <| by
    cases spsr with
    | false => exact State.reaches_writeCpsr_advance hpart ht
    | true => exact (State.reaches_writeSpsr hpart ht).trans t.reaches_advance

end

/-! ## The instructions and the step -/

/-- An instruction of the part answers a state that elementary updates make. Being of the part matters for MSR alone,
which writes SPSRs and 32-bit modes (49_status R332). -/
theorem exec_reaches {i : Instr} {s : State} (hi : WellFormed s.cfg.variant i = true) :
    Ensures (exec i s) s.Reaches := by
  cases i with
  | msrReg => exact ensures_instruction_reaches (ensures_ite (fun _ => ensures_refused _) fun _ => ensures_msr_reaches hi)
  | msrImm => exact ensures_instruction_reaches (ensures_msr_reaches hi)
  | mul | mla => exact multiply_updates s
  | umull | umlal | smull | smlal => exact longMultiply_updates s
  | swp | swpb => exact swap_updates s
  | undefinedArm2 | undefined | swi => exact trap_updates s
  | mrs => exact execMrs_updates s
  | tstpImm | tstpReg | tstpRegShift | teqpImm | teqpReg | teqpRegShift | cmppImm | cmppReg | cmppRegShift
  | cmnpImm | cmnpReg | cmnpRegShift => exact dataTestP_updates s
  | tstImm | tstReg | tstRegShift | teqImm | teqReg | teqRegShift | cmpImm | cmpReg | cmpRegShift
  | cmnImm | cmnReg | cmnRegShift => exact dataTest_updates s
  | ldrtImm | ldrtReg | strtImm | strtReg | ldrbtImm | ldrbtReg | strbtImm | strbtReg
  | ldrImm | ldrReg | strImm | strReg | ldrbImm | ldrbReg | strbImm | strbReg => exact singleTransfer_updates s
  | ldmia | ldmib | ldmda | ldmdb => exact blockLoad_updates s
  | stmia | stmib | stmda | stmdb => exact blockStore_updates s
  | b => exact execB_updates s
  | bl => exact execBl_updates s
  | ldc => exact execLdc_updates s
  | stc => exact execStc_updates s
  | cdp => exact execCdp_updates s
  | mrc => exact execMrc_updates s
  | mcr => exact execMcr_updates s
  | _ => exact dataProc_updates s

theorem runWord_updates (w : Word) : Updates (runWord w) := by
  intro s
  unfold runWord
  split
  · next h => exact exec_reaches (decode_wellFormed h)
  · exact conditional_updates (fun _ => ensures_refused _) s

theorem runInstruction_updates : Updates runInstruction := by
  intro s t h
  rcases runInstruction_next h with h | ⟨w, -, h⟩
  · exact takeException_updates _ s t h
  · exact runWord_updates w s t h

/-- Every step is the reset event, or a sequence of elementary updates. -/
theorem step_reset_or_reaches {s t : State} (h : step s = .next t) :
    ((s.inputs.headD quiet).reset = true ∧ t = resetEvent s.sampled) ∨ s.Reaches t := by
  have hsampled := s.reaches_sampled
  rcases step_cases s with ⟨hr, hs⟩ | ⟨-, -, hs⟩ | ⟨-, -, hs⟩ | hs <;> rw [hs] at h
  · exact .inl ⟨hr, (Host.Outcome.next.inj h).symm⟩
  · exact .inr (hsampled.trans (takeException_updates _ _ t h))
  · exact .inr (hsampled.trans (takeException_updates _ _ t h))
  · exact .inr (hsampled.trans (runInstruction_updates _ t h))

/-! ## The invariant -/

theorem State.Update.inv {s t : State} (h : s.Update t) (hs : s.Inv = true) : t.Inv = true := by
  cases h with
  | setReg | setUserReg | setSpsrs | other => rw [State.inv_congr (s := s)] <;> simp [hs]
  | control p a hmode hpc =>
    obtain ⟨hm, hp, hwf, hmem, hstored⟩ := (State.inv_iff s).1 hs
    exact (State.inv_iff _).2 ⟨hmode hm, hpc hp, hwf, hmem, hstored⟩
  | put z a v hfit hrange => exact State.inv_put hs hfit hrange

/-- At power-on the mode is the SVC mode of the configuration, at address 0, and no memory is listed (10_state R60). -/
theorem State.powerOn_inv (g : Cfg) : (State.powerOn g).Inv = true := by
  have hmode : (State.powerOn g).modeFits = true := by
    cases h : g.entry32 with
    | true => simp [State.modeFits, State.powerOn, entry32_hasPsr32 h]
    | false => simp [State.modeFits, State.mode26, State.powerOn, h, Mode.is26, Mode.bits]
  exact (State.inv_iff _).2 ⟨hmode, (State.pcFits_iff _).2 ⟨rfl, fun _ => by simp [State.powerOn]⟩, rfl, rfl, rfl⟩

/-- The reset event enters SVC mode of the configuration at address 0, and leaves memory (70_reset R400). -/
theorem resetEvent_inv {s : State} (hs : s.Inv = true) : (resetEvent s).Inv = true := by
  refine State.inv_of_pc hs rfl rfl rfl ?_ ⟨rfl, fun _ => by simp [resetEvent]⟩
  cases h : s.cfg.entry32 with
  | true => exact .inl (entry32_hasPsr32 h)
  | false => right; simp [resetEvent, h]; rfl

theorem step_inv {s t : State} (hs : s.Inv = true) (h : step s = .next t) : t.Inv = true := by
  rcases step_reset_or_reaches h with ⟨-, rfl⟩ | hr
  · exact resetEvent_inv (s.reaches_sampled.keeps (fun _ _ => State.Update.inv) hs)
  · exact hr.keeps (fun _ _ => State.Update.inv) hs

/-! ## The later parts' registers -/

theorem Mode.bank_of_is26 {m : Mode} (h : m.is26 = true) : m.bank ≠ some .abt ∧ m.bank ≠ some .und := by
  revert h
  cases m <;> decide

/-- A write in another mode than ABT and UND is of none of their registers (10_state R21). -/
theorem Regs.write_keeps_late {m : Mode} {r : Reg} {p : PReg} (hm : m.bank ≠ some .abt ∧ m.bank ≠ some .und)
    (hp : m.preg r = some p) (x : Regs) (v : Word) : (x.write p v).abt = x.abt ∧ (x.write p v).und = x.und := by
  have hb := Mode.preg_bank hp
  cases p with
  | usr | fiq | irq | svc => exact ⟨rfl, rfl⟩
  | abt i => exact absurd (hb.resolve_right (by simp [PReg.bank])).symm hm.1
  | und i => exact absurd (hb.resolve_right (by simp [PReg.bank])).symm hm.2

/-- `s` is a state of a part without the 32-bit modes, and its SPSRs and its ABT and UND registers are those of `s₀`
(10_state R22). -/
structure State.OldPart (s₀ s : State) : Prop where
  part : s.cfg.variant.hasPsr32 = false
  mode26 : s.mode26 = true
  spsrs : s.spsrs = s₀.spsrs
  abt : s.regs.abt = s₀.regs.abt
  und : s.regs.und = s₀.regs.und

theorem State.Update.oldPart {s₀ s t : State} (h : s.Update t) (hs : s₀.OldPart s) : s₀.OldPart t := by
  obtain ⟨hpart, h26, hspsrs, habt, hund⟩ := hs
  cases h with
  | setReg r v =>
    unfold State.setReg
    split
    · next p hp =>
      obtain ⟨ha, hu⟩ := Regs.write_keeps_late (Mode.bank_of_is26 h26) hp s.regs v
      exact ⟨hpart, h26, hspsrs, ha.trans habt, hu.trans hund⟩
    · exact ⟨hpart, h26, hspsrs, habt, hund⟩
  | setUserReg r v =>
    unfold State.setUserReg
    split
    · next p hp =>
      obtain ⟨ha, hu⟩ := Regs.write_keeps_late (by simp [Mode.bank]) hp s.regs v
      exact ⟨hpart, h26, hspsrs, ha.trans habt, hu.trans hund⟩
    · exact ⟨hpart, h26, hspsrs, habt, hund⟩
  | control p a hmode hpc =>
    have hfits := hmode (by simp [State.modeFits, h26])
    exact ⟨hpart, by simpa [State.modeFits, State.mode26, hpart] using hfits, hspsrs, habt, hund⟩
  | setSpsrs x hlate => rw [hpart] at hlate; cases hlate
  | put | other => exact ⟨hpart, h26, hspsrs, habt, hund⟩

end Sys2Proof.Machine

open Sys2Proof.Machine in
/-- Settles O12: every elementary update and the reset event keep the invariant, and every step is made of these. -/
theorem invariantKeptByStep : Obligations.InvariantKeptByStep := fun _ _ => step_inv

open Sys2Proof.Machine in
/-- Settles O15: no elementary update on such a part leaves the 26-bit modes or writes what the later parts have. -/
theorem oldPartsKeepAbtAndUnd : Obligations.OldPartsKeepAbtAndUnd := by
  intro s t hpart h26 hreset h
  rcases step_reset_or_reaches h with ⟨hr, -⟩ | hr
  · rw [hr] at hreset; cases hreset
  · obtain ⟨-, ht26, hspsrs, habt, hund⟩ := hr.keeps (fun _ _ => State.Update.oldPart) ⟨hpart, h26, rfl, rfl, rfl⟩
    exact ⟨ht26, hspsrs, habt, hund⟩

open Sys2Proof.Machine in
/-- Settles O11: after power-on `pc` is 0, nothing is listed, and SVC mode is the one of the configuration. -/
theorem invariantAtReset : Obligations.InvariantAtReset := ⟨State.powerOn_inv, State.powerOn_inv defaultCfg⟩
end

section
/-!
PROOF. The fetch and what stops it (20_memory R72, R81, R90; 60_exceptions R360): each answer of the fetch by its
cause, and the step that follows when no input is taken at the boundary.
-/

namespace Sys2Proof.Machine

/-! ## The fetch -/

section
variable {s : State} {w : Word} {e : Stop}

/-- The memory manager comes first: an aborted fetch is not asked whether the address holds memory (20_memory R77). -/
theorem State.access_fetch_aborted {z : Size} {p : Bool} {a : Word}
    (h : s.cfg.aborts.any (fun r => r.hits a.toNat z .fetch p) = true) :
    s.access z .fetch p a = some (.exc .prefetchAbort) := by
  simp [State.access, h]

theorem State.access_fetch_unbacked {z : Size} {p : Bool} {a : Word}
    (h : s.cfg.aborts.any (fun r => r.hits a.toNat z .fetch p) = false)
    (hhole : s.cfg.holes.any (fun r => r.holds a.toNat) = true) :
    s.access z .fetch p a = some (.fault .unbackedAddress) := by
  simp [State.access, h, hhole]

theorem State.fetch_of_access_some (h : s.access .word .fetch s.privileged s.pc = some e) : s.fetch = .error e := by
  simp only [State.fetch, h]

theorem State.fetch_of_mem_stored (h : s.access .word .fetch s.privileged s.pc = none) (hmem : s.pc.toNat ∈ s.stored) :
    s.fetch = .error (.refuse .fetchOfModifiedCode) := by
  simp only [State.fetch, h, if_pos hmem]

theorem State.fetch_of_fetches (h : s.fetches w) : s.fetch = .ok w := by
  obtain ⟨-, haccess, hmem, hw⟩ := h
  simp only [State.fetch, haccess, if_neg hmem, hw]

/-! ## The step by what the fetch answers -/

/-- A word that the part does not allocate is refused once its condition passes (30_encoding R127). -/
theorem runWord_unallocated {r : Reject} (h : decode s.cfg.variant w = .error r)
    (hc : condPassed (Cond.ofBits (w.extractLsb' 28 4)) s.psr = true) : runWord w s = .refused (.unallocated r) := by
  simp only [runWord, h]
  exact if_pos hc

/-- At the end of the run nothing is fetched (92_eei_decisions D25). -/
theorem step_endOfRun (hu : s.undisturbed = true) (hend : s.cfg.endAddr = some s.pc) : step s = .fault .endOfRun :=
  (step_undisturbed hu).trans (if_pos hend)

/-- Before the end of the run the step is the fetch, which the inputs do not enter, then what the word does. -/
theorem step_fetch (hu : s.undisturbed = true) (hend : s.cfg.endAddr ≠ some s.pc) :
    step s = andThen s.sampled s.fetch fun w => runWord w s.sampled :=
  (step_undisturbed hu).trans (if_neg hend)

theorem step_of_fetch_error (hu : s.undisturbed = true) (hend : s.cfg.endAddr ≠ some s.pc) (h : s.fetch = .error e) :
    step s = stopWith s.sampled e := by
  rw [step_fetch hu hend, h, andThen]

theorem step_of_fetches (hu : s.undisturbed = true) (h : s.fetches w) : step s = runWord w s.sampled := by
  rw [step_fetch hu h.1, State.fetch_of_fetches h, andThen]

end

end Sys2Proof.Machine

open Sys2Proof.Machine in
/-- Settles O18: the causes in the order in which the step looks at them, each with the stop that is its own. -/
theorem fetchStops : Obligations.FetchStops := by
  intro s hu aborted
  refine ⟨step_endOfRun hu, fun hend habort => ?aborted, fun hend habort hhole => ?unbacked,
    fun hend haccess hmem => ?modified, fun w r hw hc hdecode => ?unallocated⟩
  case aborted => exact step_of_fetch_error hu hend (State.fetch_of_access_some (State.access_fetch_aborted habort))
  case unbacked =>
    exact step_of_fetch_error hu hend (State.fetch_of_access_some (State.access_fetch_unbacked habort hhole))
  case modified => exact step_of_fetch_error hu hend (State.fetch_of_mem_stored haccess hmem)
  case unallocated => exact (step_of_fetches hu hw).trans (runWord_unallocated hdecode hc)
end

section
/-!
PROOF. Words by their fields, and the decoder line by line: the layer the statements about encodings rest on
(30_encoding R100 to R126).
-/

namespace Sys2Proof

open Machine

/-! ## Words field by field -/

/-- The bit stands in one of the fields, each given by its lowest bit and its length. -/
def coveredBy (fs : List (Nat × Nat)) (i : Nat) : Bool := fs.any fun f => decide (f.1 ≤ i) && decide (i < f.1 + f.2)

theorem coveredBy_iff {fs : List (Nat × Nat)} {i : Nat} :
    coveredBy fs i = true ↔ ∃ f ∈ fs, f.1 ≤ i ∧ i < f.1 + f.2 := by
  simp [coveredBy]

theorem getLsbD_field {w : Word} {lo len j : Nat} (h : j < len) : (field w lo len).getLsbD j = w.getLsbD (lo + j) := by
  simp [field, h]

/-- Two words have the same field exactly when they have the same bits there. -/
theorem field_eq_field_iff {w x : Word} {lo len : Nat} :
    field w lo len = field x lo len ↔ ∀ i, lo ≤ i → i < lo + len → w.getLsbD i = x.getLsbD i := by
  refine ⟨fun h i hlo hi => ?_, fun h => BitVec.eq_of_getLsbD_eq fun j hj => ?_⟩
  · have hj : i - lo < len := by omega
    simpa only [getLsbD_field hj, Nat.add_sub_cancel' hlo] using congrArg (·.getLsbD (i - lo)) h
  · rw [getLsbD_field hj, getLsbD_field hj]
    exact h _ (by omega) (by omega)

/-- A mask made of fields selects these fields. -/
theorem and_eq_iff_fields {w m x : Word} (fs : List (Nat × Nat)) (hm : ∀ i < 32, m.getLsbD i = coveredBy fs i)
    (hx : x &&& m = x) : w &&& m = x ↔ ∀ f ∈ fs, field w f.1 f.2 = field x f.1 f.2 := by
  simp only [field_eq_field_iff]
  constructor
  · intro h f hf i hlo hi
    by_cases h32 : i < 32
    · have hcov : m.getLsbD i = true := (hm i h32).trans (coveredBy_iff.mpr ⟨f, hf, hlo, hi⟩)
      simpa [hcov] using congrArg (·.getLsbD i) h
    · rw [BitVec.getLsbD_of_ge _ _ (by omega), BitVec.getLsbD_of_ge _ _ (by omega)]
  · intro h
    rw [← hx]
    refine BitVec.eq_of_getLsbD_eq fun i hi => ?_
    rw [BitVec.getLsbD_and, BitVec.getLsbD_and, hm i hi]
    cases hcov : coveredBy fs i with
    | false => simp
    | true =>
      obtain ⟨f, hf, hlo, hlt⟩ := coveredBy_iff.mp hcov
      rw [h f hf i hlo hlt]

/-- Words that agree in fields that cover them are the same. -/
theorem eq_of_fields {w x : Word} (fs : List (Nat × Nat)) (hc : ∀ i < 32, coveredBy fs i = true)
    (h : ∀ f ∈ fs, field w f.1 f.2 = field x f.1 f.2) : w = x := by
  have hm : ∀ i < 32, (BitVec.allOnes 32).getLsbD i = coveredBy fs i := fun i hi => by
    rw [BitVec.getLsbD_allOnes, hc i hi, decide_eq_true hi]
  rw [← BitVec.and_allOnes (x := w)]
  exact (and_eq_iff_fields fs hm BitVec.and_allOnes).mpr h

/-- Two fields side by side are one field. -/
theorem field_append (w : Word) (lo n len : Nat) :
    field w (lo + len) n ++ field w lo len = field w lo (n + len) := by
  refine BitVec.eq_of_getLsbD_eq fun j hj => ?_
  rw [BitVec.getLsbD_append, getLsbD_field hj]
  split
  next hlt => exact getLsbD_field hlt
  next hge => rw [getLsbD_field (by omega), show lo + len + (j - len) = lo + j by omega]

/-- A field of a field is a field of the word. -/
theorem extractLsb'_field {w : Word} {lo len a n : Nat} (h : a + n ≤ len) :
    (field w lo len).extractLsb' a n = field w (lo + a) n := by
  refine BitVec.eq_of_getLsbD_eq fun j hj => ?_
  rw [getLsbD_field hj, BitVec.getLsbD_extractLsb', getLsbD_field (by omega), Nat.add_assoc, decide_eq_true hj,
    Bool.true_and]

/-- A bit of a field is a bit of the word. -/
theorem flag_of_field {w : Word} {lo len : Nat} {x : BitVec len} (h : field w lo len = x) {j : Nat} (hj : j < len) :
    flag w (lo + j) = x.getLsbD j := by
  rw [← h, getLsbD_field hj, flag]

/-- A field of one bit is that bit. -/
theorem field_one (w : Word) (i : Nat) : field w i 1 = BitVec.ofBool (flag w i) := by
  apply BitVec.eq_of_toNat_eq
  rw [BitVec.toNat_ofBool, toNat_flag, toNat_field, pow_one]

theorem field_one_eq_iff {w x : Word} {i : Nat} : field w i 1 = field x i 1 ↔ flag w i = flag x i := by
  rw [field_one, field_one]
  cases flag w i <;> cases flag x i <;> decide

/-! ## The decoder, line by line -/

section
variable {v : Variant} {w : Word}

theorem decode_of_extension (h25 : field w 25 3 = 0#3) (h7 : flag w 7 = true) (h4 : flag w 4 = true) :
    decode v w = decodeExtension v (Cond.ofBits (field w 28 4)) w := by
  simp [decode, h25, h7, h4]

theorem decode_of_psrReg (h25 : field w 25 3 = 0#3) (h74 : (flag w 7 && flag w 4) = false) (hp : inPsrSpace w = true) :
    decode v w = decodePsrSpace v (Cond.ofBits (field w 28 4)) w := by
  simp [decode, h25, h74, hp]

theorem decode_of_psrImm (h25 : field w 25 3 = 1#3) (hp : inPsrSpace w = true) :
    decode v w = decodePsrSpace v (Cond.ofBits (field w 28 4)) w := by
  simp [decode, h25, hp]

theorem decode_of_dpImm (h25 : field w 25 3 = 1#3) (hp : inPsrSpace w = false) :
    decode v w = .ok (decodeDpImm (Cond.ofBits (field w 28 4)) w) := by
  simp [decode, h25, hp]

theorem decode_of_dpReg (h25 : field w 25 3 = 0#3) (h4 : flag w 4 = false) (hp : inPsrSpace w = false) :
    decode v w = .ok (decodeDpReg (Cond.ofBits (field w 28 4)) w) := by
  simp [decode, h25, h4, hp]

theorem decode_of_dpRegShift (h25 : field w 25 3 = 0#3) (h7 : flag w 7 = false) (h4 : flag w 4 = true)
    (hp : inPsrSpace w = false) : decode v w = .ok (decodeDpRegShift (Cond.ofBits (field w 28 4)) w) := by
  simp [decode, h25, h7, h4, hp]

theorem decode_of_transferImm (h25 : field w 25 3 = 2#3) :
    decode v w = .ok (decodeTransferImm (Cond.ofBits (field w 28 4)) w) := by
  simp [decode, h25]

theorem decode_of_transferReg (h25 : field w 25 3 = 3#3) (h4 : flag w 4 = false) :
    decode v w = .ok (decodeTransferReg (Cond.ofBits (field w 28 4)) w) := by
  simp [decode, h25, h4]

theorem decode_of_undefined (h25 : field w 25 3 = 3#3) (h4 : flag w 4 = true) :
    decode v w = .ok (.undefined (Cond.ofBits (field w 28 4)) (field w 5 20) (field w 0 4)) := by
  simp [decode, h25, h4]

theorem decode_of_block (h25 : field w 25 3 = 4#3) :
    decode v w = .ok (decodeBlock (Cond.ofBits (field w 28 4)) w) := by
  simp [decode, h25]

theorem decode_of_branch (h25 : field w 25 3 = 5#3) :
    decode v w = .ok (if flag w 24 then .bl (Cond.ofBits (field w 28 4)) (field w 0 24)
      else .b (Cond.ofBits (field w 28 4)) (field w 0 24)) := by
  cases h : flag w 24 <;> simp [decode, h25, h]

theorem decode_of_cpTransfer (h25 : field w 25 3 = 6#3) :
    decode v w = .ok ((if flag w 20 then Instr.ldc else Instr.stc) (Cond.ofBits (field w 28 4)) (flag w 24) (flag w 23)
      (flag w 22) (flag w 21) (field w 16 4) (field w 12 4) (field w 8 4) (field w 0 8)) := by
  cases h : flag w 20 <;> simp [decode, h25, h]

theorem decode_of_coprocessor (h25 : field w 25 3 = 7#3) :
    decode v w = .ok (decodeCoprocessor (Cond.ofBits (field w 28 4)) w) := by
  simp [decode, h25]

end

/-! ## The families of the decoder's lines -/

/-- The data processing instruction with the operation number `op` (30_encoding R102): a test with Rd = 1111 is the
P form (R126). -/
def dpOfBits (op : BitVec 4) (c : Cond) (sb : Bool) (rn rd : Reg) (o : Op2) : Instr :=
  match op with
  | 0#4 => dpInstr .and c sb rn rd o
  | 1#4 => dpInstr .eor c sb rn rd o
  | 2#4 => dpInstr .sub c sb rn rd o
  | 3#4 => dpInstr .rsb c sb rn rd o
  | 4#4 => dpInstr .add c sb rn rd o
  | 5#4 => dpInstr .adc c sb rn rd o
  | 6#4 => dpInstr .sbc c sb rn rd o
  | 7#4 => dpInstr .rsc c sb rn rd o
  | 8#4 => if rd = 15#4 then testPInstr .tst c rn o else testInstr .tst c rn rd o
  | 9#4 => if rd = 15#4 then testPInstr .teq c rn o else testInstr .teq c rn rd o
  | 10#4 => if rd = 15#4 then testPInstr .cmp c rn o else testInstr .cmp c rn rd o
  | 11#4 => if rd = 15#4 then testPInstr .cmn c rn o else testInstr .cmn c rn rd o
  | 12#4 => dpInstr .orr c sb rn rd o
  | 13#4 => dpInstr .mov c sb rn rd o
  | 14#4 => dpInstr .bic c sb rn rd o
  | _ => dpInstr .mvn c sb rn rd o

/-- The word of a data processing instruction in the form of its second operand (30_encoding R102). -/
def layoutDp (op : BitVec 4) (c : Cond) (sb : Bool) (rn rd : Reg) : Op2 → Word
  | .imm rot imm => layoutDpImm op c sb rn rd rot imm
  | .reg amt sh rm => layoutDpReg op c sb rn rd amt sh rm
  | .regShift rs sh rm => layoutDpRegShift op c sb rn rd rs sh rm

/-- The word of a single data transfer in the form of its offset (30_encoding R106). -/
def layoutTransfer (b l : Bool) (c : Cond) (p u w : Bool) (rn rd : Reg) : Offset → Word
  | .imm off => layoutTransferImm b l c p u w rn rd off
  | .reg amt sh rm => layoutTransferReg b l c p u w rn rd amt sh rm

/-- The size that the B bit says (44_single_data_transfer R230). -/
def sizeOfBit (b : Bool) : Size := if b then .byte else .word

section
variable (c : Cond) (w : Word)

theorem decodeDpImm_eq : decodeDpImm c w =
    dpOfBits (field w 21 4) c (flag w 20) (field w 16 4) (field w 12 4) (.imm (field w 8 4) (field w 0 8)) := by
  rfl

theorem decodeDpReg_eq : decodeDpReg c w =
    dpOfBits (field w 21 4) c (flag w 20) (field w 16 4) (field w 12 4)
      (.reg (field w 7 5) (ShiftType.ofBits (field w 5 2)) (field w 0 4)) := by
  rfl

theorem decodeDpRegShift_eq : decodeDpRegShift c w =
    dpOfBits (field w 21 4) c (flag w 20) (field w 16 4) (field w 12 4)
      (.regShift (field w 8 4) (ShiftType.ofBits (field w 5 2)) (field w 0 4)) := by
  rfl

theorem decodeTransferImm_eq : decodeTransferImm c w =
    transferInstr (flag w 20) (sizeOfBit (flag w 22)) c (flag w 24) (flag w 23) (flag w 21) (field w 16 4)
      (field w 12 4) (.imm (field w 0 12)) := by
  unfold decodeTransferImm
  cases flag w 20 <;> cases flag w 22 <;> rfl

theorem decodeTransferReg_eq : decodeTransferReg c w =
    transferInstr (flag w 20) (sizeOfBit (flag w 22)) c (flag w 24) (flag w 23) (flag w 21) (field w 16 4)
      (field w 12 4) (.reg (field w 7 5) (ShiftType.ofBits (field w 5 2)) (field w 0 4)) := by
  unfold decodeTransferReg
  cases flag w 20 <;> cases flag w 22 <;> rfl

theorem decodeBlock_eq : decodeBlock c w =
    blockInstr (flag w 20) (flag w 24) (flag w 23) c (flag w 22) (flag w 21) (field w 16 4) (field w 0 16) := by
  unfold decodeBlock
  cases flag w 20 <;> cases flag w 24 <;> cases flag w 23 <;> rfl
end

end Sys2Proof
end

section
/-!
PROOF. The word of what a word decodes to is that word (30_encoding R125).
-/

namespace Sys2Proof

open Machine

/-! ## The words of the families -/

section
variable (c : Cond) (rn rd : Reg)

/-- The encoder writes a test with its S bit set (30_encoding R102), so the S bit given must be that. -/
theorem encode_dpOfBits {op : BitVec 4} {sb : Bool} (o : Op2) (h : op.extractLsb' 2 2 = 2#2 → sb = true) :
    encode (dpOfBits op c sb rn rd o) = layoutDp op c sb rn rd o := by
  fun_cases dpOfBits op c sb rn rd o with
  | case9 hrd | case11 hrd | case13 hrd | case15 hrd =>
    obtain rfl := h (by decide)
    subst hrd
    cases o <;> rfl
  | case10 | case12 | case14 | case16 =>
    obtain rfl := h (by decide)
    cases o <;> rfl
  | case20 =>
    obtain rfl : op = 15#4 := by clear h; revert op; decide
    cases o <;> rfl
  | _ => cases o <;> rfl

theorem encode_transferInstr (l b p u w : Bool) (o : Offset) :
    encode (transferInstr l (sizeOfBit b) c p u w rn rd o) = layoutTransfer b l c p u w rn rd o := by
  cases l <;> cases b <;> cases p <;> cases w <;> cases o <;> rfl

theorem encode_blockInstr (l p u sb w : Bool) (list : BitVec 16) :
    encode (blockInstr l p u c sb w rn list) = layoutBlock l p u c sb w rn list := by
  cases l <;> cases p <;> cases u <;> rfl

end

/-! ## A word is the layout of its own fields -/

section
variable {w : Word}

theorem layoutDpImm_of_fields (h25 : field w 25 3 = 1#3) :
    layoutDpImm (field w 21 4) (Cond.ofBits (field w 28 4)) (flag w 20) (field w 16 4) (field w 12 4) (field w 8 4)
      (field w 0 8) = w := by
  apply eq_of_fields [(28, 4), (25, 3), (21, 4), (20, 1), (16, 4), (12, 4), (8, 4), (0, 8)] (by decide)
  simp [layoutDpImm_fields, field_one, h25]

theorem layoutDpReg_of_fields (h25 : field w 25 3 = 0#3) (h4 : flag w 4 = false) :
    layoutDpReg (field w 21 4) (Cond.ofBits (field w 28 4)) (flag w 20) (field w 16 4) (field w 12 4) (field w 7 5)
      (ShiftType.ofBits (field w 5 2)) (field w 0 4) = w := by
  apply eq_of_fields [(28, 4), (25, 3), (21, 4), (20, 1), (16, 4), (12, 4), (7, 5), (5, 2), (4, 1), (0, 4)]
    (by decide)
  simp [layoutDpReg_fields, field_one, h25, h4]

theorem layoutDpRegShift_of_fields (h25 : field w 25 3 = 0#3) (h7 : flag w 7 = false) (h4 : flag w 4 = true) :
    layoutDpRegShift (field w 21 4) (Cond.ofBits (field w 28 4)) (flag w 20) (field w 16 4) (field w 12 4)
      (field w 8 4) (ShiftType.ofBits (field w 5 2)) (field w 0 4) = w := by
  apply eq_of_fields [(28, 4), (25, 3), (21, 4), (20, 1), (16, 4), (12, 4), (8, 4), (7, 1), (5, 2), (4, 1),
    (0, 4)] (by decide)
  simp [layoutDpRegShift_fields, field_one, h25, h7, h4]

theorem layoutMul_of_fields {op : BitVec 7} (h21 : field w 21 7 = op) (h4 : field w 4 4 = 9#4) :
    layoutMul op (Cond.ofBits (field w 28 4)) (flag w 20) (field w 16 4) (field w 12 4) (field w 8 4) (field w 0 4) =
      w := by
  apply eq_of_fields [(28, 4), (21, 7), (20, 1), (16, 4), (12, 4), (8, 4), (4, 4), (0, 4)] (by decide)
  simp [layoutMul_fields, field_one, h21, h4]

theorem layoutSwap_of_fields {b : Bool} (h23 : field w 23 5 = 2#5) (h20 : field w 20 2 = 0#2)
    (h22 : flag w 22 = b) (h4 : field w 4 8 = 9#8) :
    layoutSwap b (Cond.ofBits (field w 28 4)) (field w 16 4) (field w 12 4) (field w 0 4) = w := by
  apply eq_of_fields [(28, 4), (23, 5), (22, 1), (20, 2), (16, 4), (12, 4), (4, 8), (0, 4)] (by decide)
  simp [layoutSwap_fields, field_one, h23, h20, h22, h4]

theorem layoutTransferImm_of_fields (h25 : field w 25 3 = 2#3) :
    layoutTransferImm (flag w 22) (flag w 20) (Cond.ofBits (field w 28 4)) (flag w 24) (flag w 23) (flag w 21)
      (field w 16 4) (field w 12 4) (field w 0 12) = w := by
  apply eq_of_fields [(28, 4), (25, 3), (24, 1), (23, 1), (22, 1), (21, 1), (20, 1), (16, 4), (12, 4), (0, 12)]
    (by decide)
  simp [layoutTransferImm_fields, field_one, h25]

theorem layoutTransferReg_of_fields (h25 : field w 25 3 = 3#3) (h4 : flag w 4 = false) :
    layoutTransferReg (flag w 22) (flag w 20) (Cond.ofBits (field w 28 4)) (flag w 24) (flag w 23) (flag w 21)
      (field w 16 4) (field w 12 4) (field w 7 5) (ShiftType.ofBits (field w 5 2)) (field w 0 4) = w := by
  apply eq_of_fields [(28, 4), (25, 3), (24, 1), (23, 1), (22, 1), (21, 1), (20, 1), (16, 4), (12, 4), (7, 5),
    (5, 2), (4, 1), (0, 4)] (by decide)
  simp [layoutTransferReg_fields, field_one, h25, h4]

theorem layoutBlock_of_fields (h25 : field w 25 3 = 4#3) :
    layoutBlock (flag w 20) (flag w 24) (flag w 23) (Cond.ofBits (field w 28 4)) (flag w 22) (flag w 21)
      (field w 16 4) (field w 0 16) = w := by
  apply eq_of_fields [(28, 4), (25, 3), (24, 1), (23, 1), (22, 1), (21, 1), (20, 1), (16, 4), (0, 16)] (by decide)
  simp [layoutBlock_fields, field_one, h25]

theorem layoutCpTransfer_of_fields {l : Bool} (h25 : field w 25 3 = 6#3) (h20 : flag w 20 = l) :
    layoutCpTransfer l (Cond.ofBits (field w 28 4)) (flag w 24) (flag w 23) (flag w 22) (flag w 21) (field w 16 4)
      (field w 12 4) (field w 8 4) (field w 0 8) = w := by
  apply eq_of_fields [(28, 4), (25, 3), (24, 1), (23, 1), (22, 1), (21, 1), (20, 1), (16, 4), (12, 4), (8, 4),
    (0, 8)] (by decide)
  simp [layoutCpTransfer_fields, field_one, h25, h20]

theorem layoutCpReg_of_fields {l : Bool} (h25 : field w 25 3 = 7#3) (h24 : flag w 24 = false)
    (h4 : flag w 4 = true) (h20 : flag w 20 = l) :
    layoutCpReg l (Cond.ofBits (field w 28 4)) (field w 21 3) (field w 16 4) (field w 12 4) (field w 8 4)
      (field w 5 3) (field w 0 4) = w := by
  apply eq_of_fields [(28, 4), (25, 3), (24, 1), (21, 3), (20, 1), (16, 4), (12, 4), (8, 4), (5, 3), (4, 1),
    (0, 4)] (by decide)
  simp [layoutCpReg_fields, field_one, h25, h24, h4, h20]

theorem encode_undefinedArm2_of_fields (h24 : field w 24 4 = 1#4) (h7 : flag w 7 = true) (h4 : flag w 4 = true) :
    encode (.undefinedArm2 (Cond.ofBits (field w 28 4)) (field w 8 16) (field w 5 2) (field w 0 4)) = w := by
  apply eq_of_fields [(28, 4), (24, 4), (8, 16), (7, 1), (5, 2), (4, 1), (0, 4)] (by decide)
  simp [encode_undefinedArm2_fields, field_one, h24, h7, h4]

theorem encode_undefined_of_fields (h25 : field w 25 3 = 3#3) (h4 : flag w 4 = true) :
    encode (.undefined (Cond.ofBits (field w 28 4)) (field w 5 20) (field w 0 4)) = w := by
  apply eq_of_fields [(28, 4), (25, 3), (5, 20), (4, 1), (0, 4)] (by decide)
  simp [encode_undefined_fields, field_one, h25, h4]

theorem encode_b_of_fields (h25 : field w 25 3 = 5#3) (h24 : flag w 24 = false) :
    encode (.b (Cond.ofBits (field w 28 4)) (field w 0 24)) = w := by
  apply eq_of_fields [(28, 4), (25, 3), (24, 1), (0, 24)] (by decide)
  simp [encode_b_fields, field_one, h25, h24]

theorem encode_bl_of_fields (h25 : field w 25 3 = 5#3) (h24 : flag w 24 = true) :
    encode (.bl (Cond.ofBits (field w 28 4)) (field w 0 24)) = w := by
  apply eq_of_fields [(28, 4), (25, 3), (24, 1), (0, 24)] (by decide)
  simp [encode_bl_fields, field_one, h25, h24]

theorem encode_cdp_of_fields (h25 : field w 25 3 = 7#3) (h24 : flag w 24 = false) (h4 : flag w 4 = false) :
    encode (.cdp (Cond.ofBits (field w 28 4)) (field w 20 4) (field w 16 4) (field w 12 4) (field w 8 4)
      (field w 5 3) (field w 0 4)) = w := by
  apply eq_of_fields [(28, 4), (25, 3), (24, 1), (20, 4), (16, 4), (12, 4), (8, 4), (5, 3), (4, 1), (0, 4)]
    (by decide)
  simp [encode_cdp_fields, field_one, h25, h24, h4]

theorem encode_swi_of_fields (h25 : field w 25 3 = 7#3) (h24 : flag w 24 = true) :
    encode (.swi (Cond.ofBits (field w 28 4)) (field w 0 24)) = w := by
  apply eq_of_fields [(28, 4), (25, 3), (24, 1), (0, 24)] (by decide)
  simp [encode_swi_fields, field_one, h25, h24]

theorem inPsrSpace_iff : inPsrSpace w = true ↔ field w 23 2 = 2#2 ∧ flag w 20 = false := by
  simp [inPsrSpace]

theorem PsrField.bits_of_ofBits {b : BitVec 4} {a : PsrField} : PsrField.ofBits b = some a → a.bits = b := by
  revert a b
  decide

theorem encode_mrs_of_fields (h25 : field w 25 3 = 0#3) (hp : inPsrSpace w = true) (h21 : field w 21 1 = 0#1)
    (h16 : field w 16 4 = 15#4) (h0 : field w 0 12 = 0#12) :
    encode (.mrs (Cond.ofBits (field w 28 4)) (flag w 22) (field w 12 4)) = w := by
  obtain ⟨h23, h20⟩ := inPsrSpace_iff.mp hp
  apply eq_of_fields [(28, 4), (25, 3), (23, 2), (22, 1), (21, 1), (20, 1), (16, 4), (12, 4), (0, 12)] (by decide)
  simp [encode_mrs_fields, field_one_eq_iff, h25, h23, h21, h20, h16, h0]

theorem encode_msrReg_of_fields {a : PsrField} (h25 : field w 25 3 = 0#3) (hp : inPsrSpace w = true)
    (h21 : field w 21 1 = 1#1) (h12 : field w 12 4 = 15#4) (h4 : field w 4 8 = 0#8)
    (ha : PsrField.ofBits (field w 16 4) = some a) :
    encode (.msrReg (Cond.ofBits (field w 28 4)) (flag w 22) a (field w 0 4)) = w := by
  obtain ⟨h23, h20⟩ := inPsrSpace_iff.mp hp
  apply eq_of_fields [(28, 4), (25, 3), (23, 2), (22, 1), (21, 1), (20, 1), (16, 4), (12, 4), (4, 8), (0, 4)]
    (by decide)
  simp [encode_msrReg_fields, field_one_eq_iff, h25, h23, h21, h20, h12, h4, PsrField.bits_of_ofBits ha]

theorem encode_msrImm_of_fields {a : PsrField} (h25 : field w 25 3 = 1#3) (hp : inPsrSpace w = true)
    (h21 : field w 21 1 = 1#1) (h12 : field w 12 4 = 15#4) (ha : PsrField.ofBits (field w 16 4) = some a) :
    encode (.msrImm (Cond.ofBits (field w 28 4)) (flag w 22) a (field w 8 4) (field w 0 8)) = w := by
  obtain ⟨h23, h20⟩ := inPsrSpace_iff.mp hp
  apply eq_of_fields [(28, 4), (25, 3), (23, 2), (22, 1), (21, 1), (20, 1), (16, 4), (12, 4), (8, 4), (0, 8)]
    (by decide)
  simp [encode_msrImm_fields, field_one_eq_iff, h25, h23, h21, h20, h12, PsrField.bits_of_ofBits ha]

end

/-! ## The encoder gives back the word that was decoded -/

section
variable {v : Variant} {w : Word} {i : Instr}

/-- A test operation outside the space of MRS and MSR has its S bit set (30_encoding R125 line 2). -/
theorem sBit_of_not_inPsrSpace (hp : inPsrSpace w = false) (h : (field w 21 4).extractLsb' 2 2 = 2#2) :
    flag w 20 = true := by
  rw [extractLsb'_field (by decide)] at h
  simpa [inPsrSpace, h] using hp

theorem encode_decodeDpImm (h25 : field w 25 3 = 1#3) (hp : inPsrSpace w = false) :
    encode (decodeDpImm (Cond.ofBits (field w 28 4)) w) = w := by
  rw [decodeDpImm_eq, encode_dpOfBits _ _ _ _ (sBit_of_not_inPsrSpace hp), layoutDp, layoutDpImm_of_fields h25]

theorem encode_decodeDpReg (h25 : field w 25 3 = 0#3) (h4 : flag w 4 = false) (hp : inPsrSpace w = false) :
    encode (decodeDpReg (Cond.ofBits (field w 28 4)) w) = w := by
  rw [decodeDpReg_eq, encode_dpOfBits _ _ _ _ (sBit_of_not_inPsrSpace hp), layoutDp, layoutDpReg_of_fields h25 h4]

theorem encode_decodeDpRegShift (h25 : field w 25 3 = 0#3) (h7 : flag w 7 = false) (h4 : flag w 4 = true)
    (hp : inPsrSpace w = false) : encode (decodeDpRegShift (Cond.ofBits (field w 28 4)) w) = w := by
  rw [decodeDpRegShift_eq, encode_dpOfBits _ _ _ _ (sBit_of_not_inPsrSpace hp), layoutDp,
    layoutDpRegShift_of_fields h25 h7 h4]

theorem encode_decodeTransferImm (h25 : field w 25 3 = 2#3) :
    encode (decodeTransferImm (Cond.ofBits (field w 28 4)) w) = w := by
  rw [decodeTransferImm_eq, encode_transferInstr, layoutTransfer, layoutTransferImm_of_fields h25]

theorem encode_decodeTransferReg (h25 : field w 25 3 = 3#3) (h4 : flag w 4 = false) :
    encode (decodeTransferReg (Cond.ofBits (field w 28 4)) w) = w := by
  rw [decodeTransferReg_eq, encode_transferInstr, layoutTransfer, layoutTransferReg_of_fields h25 h4]

theorem encode_decodeBlock (h25 : field w 25 3 = 4#3) : encode (decodeBlock (Cond.ofBits (field w 28 4)) w) = w := by
  rw [decodeBlock_eq, encode_blockInstr, layoutBlock_of_fields h25]

theorem encode_decodeCoprocessor (h25 : field w 25 3 = 7#3) :
    encode (decodeCoprocessor (Cond.ofBits (field w 28 4)) w) = w := by
  fun_cases decodeCoprocessor (Cond.ofBits (field w 28 4)) w with
  | case1 h24 => exact encode_swi_of_fields h25 h24
  | case2 _ _ _ _ _ h24 h4 h20 => exact layoutCpReg_of_fields h25 (Bool.eq_false_of_not_eq_true h24) h4 h20
  | case3 _ _ _ _ _ h24 h4 h20 =>
    exact layoutCpReg_of_fields h25 (Bool.eq_false_of_not_eq_true h24) h4 (Bool.eq_false_of_not_eq_true h20)
  | case4 _ _ _ _ _ h24 h4 =>
    exact encode_cdp_of_fields h25 (Bool.eq_false_of_not_eq_true h24) (Bool.eq_false_of_not_eq_true h4)

theorem encode_decodeExtension (h7 : flag w 7 = true) (h4 : flag w 4 = true)
    (h : decodeExtension v (Cond.ofBits (field w 28 4)) w = .ok i) : encode i = w := by
  have hmul (h22 : field w 22 6 = 0#6) : field w 21 7 = 0#6 ++ BitVec.ofBool (flag w 21) := by
    rw [← h22, ← field_one]
    exact (field_append w 21 6 1).symm
  have hlong (h23 : field w 23 5 = 1#5) : field w 21 7 = 1#5 ++ field w 21 2 := by
    rw [← h23]
    exact (field_append w 21 5 2).symm
  revert h
  fun_cases decodeExtension v (Cond.ofBits (field w 28 4)) w with
  | case1 _ _ _ _ _ hm h21 | case2 _ _ _ _ _ hm h21 =>
    rintro ⟨⟩
    exact layoutMul_of_fields ((hmul hm.1).trans (by simp [h21])) hm.2
  | case3 _ _ _ _ _ _ hl _ h21 | case4 _ _ _ _ _ _ hl _ h21 | case5 _ _ _ _ _ _ hl _ h21 =>
    rintro ⟨⟩
    exact layoutMul_of_fields ((hlong hl.1).trans (by simp [h21])) hl.2
  | case6 _ _ _ _ _ _ hl _ h0 h1 h2 =>
    have h21 : field w 21 2 = 3#2 := by
      revert h0 h1 h2
      generalize field w 21 2 = x
      revert x
      decide
    rintro ⟨⟩
    exact layoutMul_of_fields ((hlong hl.1).trans (by simp [h21])) hl.2
  | case8 _ _ _ _ _ hs h22 =>
    obtain ⟨h23, h20, h4, -⟩ := hs
    rintro ⟨⟩
    exact layoutSwap_of_fields h23 h20 h22 h4
  | case9 _ _ _ _ _ hs h22 =>
    obtain ⟨h23, h20, h4, -⟩ := hs
    rintro ⟨⟩
    exact layoutSwap_of_fields h23 h20 (Bool.eq_false_of_not_eq_true h22) h4
  | case10 _ _ _ _ hu =>
    rintro ⟨⟩
    exact encode_undefinedArm2_of_fields hu.2 h7 h4
  | case7 | case11 => nofun

theorem encode_decodePsrSpace (h25 : field w 25 3 = 0#3 ∨ field w 25 3 = 1#3) (hp : inPsrSpace w = true)
    (h : decodePsrSpace v (Cond.ofBits (field w 28 4)) w = .ok i) : encode i = w := by
  have hreg (hf : flag w 25 = false) : field w 25 3 = 0#3 :=
    h25.resolve_right fun h1 => by simp [flag_of_field h1 (j := 0)] at hf
  have himm (hf : flag w 25 = true) : field w 25 3 = 1#3 :=
    h25.resolve_left fun h0 => by simp [flag_of_field h0 (j := 0)] at hf
  revert h
  fun_cases decodePsrSpace v (Cond.ofBits (field w 28 4)) w with
  | case1 _ hm =>
    simp only [Bool.and_eq_true, Bool.not_eq_true', beq_iff_eq, and_assoc] at hm
    obtain ⟨hf, h21, h16, h0⟩ := hm
    rintro ⟨⟩
    exact encode_mrs_of_fields (hreg hf) hp h21 h16 h0
  | case2 _ _ hm a ha =>
    simp only [Bool.and_eq_true, Bool.not_eq_true', beq_iff_eq, and_assoc] at hm
    obtain ⟨hf, h21, h12, h4⟩ := hm
    rintro ⟨⟩
    exact encode_msrReg_of_fields (hreg hf) hp h21 h12 h4 ha
  | case4 _ _ _ hm a ha =>
    simp only [Bool.and_eq_true, beq_iff_eq, and_assoc] at hm
    obtain ⟨hf, h21, h12⟩ := hm
    rintro ⟨⟩
    exact encode_msrImm_of_fields (himm hf) hp h21 h12 ha
  | case3 | case5 | case6 | case7 => nofun

/-- What is none of the other seven numbers of bits 27..25 is 111. -/
theorem field_eq_seven (h0 : field w 25 3 ≠ 0#3) (h1 : field w 25 3 ≠ 1#3) (h2 : field w 25 3 ≠ 2#3)
    (h3 : field w 25 3 ≠ 3#3) (h4 : field w 25 3 ≠ 4#3) (h5 : field w 25 3 ≠ 5#3) (h6 : field w 25 3 ≠ 6#3) :
    field w 25 3 = 7#3 := by bv_omega

/-- The word of the instruction that a word decodes to is that word. -/
theorem encode_decode (h : decode v w = .ok i) : encode i = w := by
  revert h
  fun_cases decode v w with
  | case1 _ h25 h74 =>
    obtain ⟨h7, h4⟩ := Bool.and_eq_true_iff.mp h74
    exact encode_decodeExtension h7 h4
  | case2 _ h25 _ hp => exact encode_decodePsrSpace (.inl h25) hp
  | case5 _ h25 hp => exact encode_decodePsrSpace (.inr h25) hp
  | case3 _ h25 h74 hp h4 =>
    rintro ⟨⟩
    exact encode_decodeDpRegShift h25 (by simpa [h4] using h74) h4 (Bool.eq_false_of_not_eq_true hp)
  | case4 _ h25 _ hp h4 =>
    rintro ⟨⟩
    exact encode_decodeDpReg h25 (Bool.eq_false_of_not_eq_true h4) (Bool.eq_false_of_not_eq_true hp)
  | case6 _ h25 hp =>
    rintro ⟨⟩
    exact encode_decodeDpImm h25 (Bool.eq_false_of_not_eq_true hp)
  | case7 _ h25 =>
    rintro ⟨⟩
    exact encode_decodeTransferImm h25
  | case8 _ h25 h4 =>
    rintro ⟨⟩
    exact encode_undefined_of_fields h25 h4
  | case9 _ h25 h4 =>
    rintro ⟨⟩
    exact encode_decodeTransferReg h25 (Bool.eq_false_of_not_eq_true h4)
  | case10 _ h25 =>
    rintro ⟨⟩
    exact encode_decodeBlock h25
  | case11 _ h25 h24 =>
    rintro ⟨⟩
    exact encode_bl_of_fields h25 h24
  | case12 _ h25 h24 =>
    rintro ⟨⟩
    exact encode_b_of_fields h25 (Bool.eq_false_of_not_eq_true h24)
  | case13 _ h25 h20 =>
    rintro ⟨⟩
    exact layoutCpTransfer_of_fields h25 h20
  | case14 _ h25 h20 =>
    rintro ⟨⟩
    exact layoutCpTransfer_of_fields h25 (Bool.eq_false_of_not_eq_true h20)
  | case15 _ h0 h1 h2 h3 h4 h5 h6 =>
    rintro ⟨⟩
    exact encode_decodeCoprocessor (field_eq_seven h0 h1 h2 h3 h4 h5 h6)

end

end Sys2Proof

open Sys2Proof in
/-- Settles O2: by the line that decodes the word, each a word made of the fields that the line read. -/
theorem encodeInvertsDecode : Obligations.EncodeInvertsDecode := fun _ _ _ h => ⟨decode_wellFormed h, encode_decode h⟩
end

section
/-!
PROOF. What the word of an instruction of the part decodes to is that instruction (30_encoding R102 to R114).
-/

namespace Sys2Proof

open Machine

/-! ## Line 1 of the decoder beside the multiplies -/

section
variable {v : Variant} {c : Cond} {w : Word}

/-- Bit 24 keeps a word out of the multiplies (30_encoding R104, R105). -/
theorem not_multiply_of_bit24 (h : flag w 24 = true) : field w 22 6 ≠ 0#6 ∧ field w 23 5 ≠ 1#5 := by
  constructor <;> intro hf
  · simp [flag_of_field hf (j := 2)] at h
  · simp [flag_of_field hf (j := 1)] at h

theorem decodeExtension_of_swap (h23 : field w 23 5 = 2#5) (h20 : field w 20 2 = 0#2) (h4 : field w 4 8 = 9#8)
    (hv : v.hasSwp = true) : decodeExtension v c w =
      .ok ((if flag w 22 then Instr.swpb else Instr.swp) c (field w 16 4) (field w 12 4) (field w 0 4)) := by
  have h22 := (not_multiply_of_bit24 (flag_of_field h23 (j := 1) (by decide))).1
  cases h : flag w 22 <;> simp [decodeExtension, h22, h23, h20, h4, hv, h]

/-- The ARM 2 has no swap, so its words with bits 27..24 = 0001 are undefined instructions (30_encoding R114). -/
theorem decodeExtension_arm2 (h24 : field w 24 4 = 1#4) : decodeExtension .arm2 c w =
    .ok (.undefinedArm2 c (field w 8 16) (field w 5 2) (field w 0 4)) := by
  obtain ⟨h22, h23⟩ := not_multiply_of_bit24 (flag_of_field h24 (j := 0) (by decide))
  simp [decodeExtension, h22, h23, h24, Variant.hasSwp]

end

/-! ## The decoder gives back the instruction that was encoded -/

section
variable {v : Variant} {c : Cond} {sb : Bool} {rn rd rm rs : Reg}

/-- With S clear the number of a test would be in the space of MRS and MSR (30_encoding R125 line 2). -/
theorem decode_layoutDpImm {op rot : BitVec 4} {imm : BitVec 8} (h : op.extractLsb' 2 2 = 2#2 → sb = true) :
    decode v (layoutDpImm op c sb rn rd rot imm) = .ok (dpOfBits op c sb rn rd (.imm rot imm)) := by
  rw [decode_of_dpImm (by simp [layoutDpImm_fields]) (by simpa [inPsrSpace, layoutDpImm_fields] using h),
    decodeDpImm_eq]
  simp [layoutDpImm_fields]

theorem decode_layoutDpReg {op : BitVec 4} {amt : BitVec 5} {sh : ShiftType}
    (h : op.extractLsb' 2 2 = 2#2 → sb = true) :
    decode v (layoutDpReg op c sb rn rd amt sh rm) = .ok (dpOfBits op c sb rn rd (.reg amt sh rm)) := by
  rw [decode_of_dpReg (by simp [layoutDpReg_fields]) (by simp [layoutDpReg_fields])
    (by simpa [inPsrSpace, layoutDpReg_fields] using h), decodeDpReg_eq]
  simp [layoutDpReg_fields]

theorem decode_layoutDpRegShift {op : BitVec 4} {sh : ShiftType} (h : op.extractLsb' 2 2 = 2#2 → sb = true) :
    decode v (layoutDpRegShift op c sb rn rd rs sh rm) = .ok (dpOfBits op c sb rn rd (.regShift rs sh rm)) := by
  rw [decode_of_dpRegShift (by simp [layoutDpRegShift_fields]) (by simp [layoutDpRegShift_fields])
    (by simp [layoutDpRegShift_fields]) (by simpa [inPsrSpace, layoutDpRegShift_fields] using h), decodeDpRegShift_eq]
  simp [layoutDpRegShift_fields]

theorem decode_layoutTransferImm {b l p u w : Bool} {off : BitVec 12} :
    decode v (layoutTransferImm b l c p u w rn rd off) =
      .ok (transferInstr l (sizeOfBit b) c p u w rn rd (.imm off)) := by
  rw [decode_of_transferImm (by simp [layoutTransferImm_fields]), decodeTransferImm_eq]
  simp [layoutTransferImm_fields]

theorem decode_layoutTransferReg {b l p u w : Bool} {amt : BitVec 5} {sh : ShiftType} :
    decode v (layoutTransferReg b l c p u w rn rd amt sh rm) =
      .ok (transferInstr l (sizeOfBit b) c p u w rn rd (.reg amt sh rm)) := by
  rw [decode_of_transferReg (by simp [layoutTransferReg_fields]) (by simp [layoutTransferReg_fields]),
    decodeTransferReg_eq]
  simp [layoutTransferReg_fields]

theorem decode_layoutBlock {l p u w : Bool} {list : BitVec 16} :
    decode v (layoutBlock l p u c sb w rn list) = .ok (blockInstr l p u c sb w rn list) := by
  rw [decode_of_block (by simp [layoutBlock_fields]), decodeBlock_eq]
  simp [layoutBlock_fields]

theorem decode_layoutCpTransfer {l p u n w : Bool} {crd cp : BitVec 4} {off : BitVec 8} :
    decode v (layoutCpTransfer l c p u n w rn crd cp off) =
      .ok ((if l then Instr.ldc else Instr.stc) c p u n w rn crd cp off) := by
  rw [decode_of_cpTransfer (by simp [layoutCpTransfer_fields])]
  simp [layoutCpTransfer_fields]

theorem decode_layoutCpReg {l : Bool} {op : BitVec 3} {crn cp : BitVec 4} {q : BitVec 3} {crm : BitVec 4} :
    decode v (layoutCpReg l c op crn rd cp q crm) =
      .ok ((if l then Instr.mrc else Instr.mcr) c op crn rd cp q crm) := by
  rw [decode_of_coprocessor (by simp [layoutCpReg_fields])]
  cases l <;> simp [layoutCpReg_fields, decodeCoprocessor]

/-- A word in the layout of the multiplies stands in line 1 of the decoder if bits 27..25 of it are 0. -/
theorem decode_layoutMul {op : BitVec 7} (h : op.extractLsb' 4 3 = 0#3) :
    decode v (layoutMul op c sb rd rn rs rm) = decodeExtension v c (layoutMul op c sb rd rn rs rm) := by
  rw [decode_of_extension (by simp [layoutMul_fields, h]) (by simp [layoutMul_fields]) (by simp [layoutMul_fields])]
  simp [layoutMul_fields]

theorem decode_layoutSwap {b : Bool} (h : v.hasSwp = true) :
    decode v (layoutSwap b c rn rd rm) = .ok ((if b then Instr.swpb else Instr.swp) c rn rd rm) := by
  obtain ⟨hc, h23, h22, h20, hrn, hrd, h8, hrm, h25, -, h7, h4⟩ := layoutSwap_fields b c rn rd rm
  rw [decode_of_extension h25 h7 h4, decodeExtension_of_swap h23 h20 h8 h, hc, h22, hrn, hrd, hrm, Cond.ofBits_bits]

end

/-- Decoding the word of an instruction of the part gives the instruction back. -/
theorem decode_encode {v : Variant} {i : Instr} (h : WellFormed v i = true) : decode v (encode i) = .ok i := by
  cases i with
  | mul | mla => exact (decode_layoutMul (by decide)).trans (by simp [decodeExtension, layoutMul_fields])
  | umull | umlal | smull | smlal =>
    rw [WellFormed] at h
    exact (decode_layoutMul (by decide)).trans (by simp [decodeExtension, layoutMul_fields, h])
  | swp | swpb => exact decode_layoutSwap h
  | tstImm | teqImm | cmpImm | cmnImm =>
    exact (decode_layoutDpImm fun _ => rfl).trans (congrArg _ (if_neg (bne_iff_ne.mp h)))
  | tstReg | teqReg | cmpReg | cmnReg =>
    exact (decode_layoutDpReg fun _ => rfl).trans (congrArg _ (if_neg (bne_iff_ne.mp h)))
  | tstRegShift | teqRegShift | cmpRegShift | cmnRegShift =>
    exact (decode_layoutDpRegShift fun _ => rfl).trans (congrArg _ (if_neg (bne_iff_ne.mp h)))
  | tstpImm | teqpImm | cmppImm | cmnpImm => exact decode_layoutDpImm fun _ => rfl
  | tstpReg | teqpReg | cmppReg | cmnpReg => exact decode_layoutDpReg fun _ => rfl
  | tstpRegShift | teqpRegShift | cmppRegShift | cmnpRegShift => exact decode_layoutDpRegShift fun _ => rfl
  | andImm | eorImm | subImm | rsbImm | addImm | adcImm | sbcImm | rscImm | orrImm | movImm | bicImm | mvnImm =>
    exact decode_layoutDpImm (absurd · (by decide))
  | andReg | eorReg | subReg | rsbReg | addReg | adcReg | sbcReg | rscReg | orrReg | movReg | bicReg | mvnReg =>
    exact decode_layoutDpReg (absurd · (by decide))
  | andRegShift | eorRegShift | subRegShift | rsbRegShift | addRegShift | adcRegShift | sbcRegShift | rscRegShift
  | orrRegShift | movRegShift | bicRegShift | mvnRegShift => exact decode_layoutDpRegShift (absurd · (by decide))
  | ldrtImm | strtImm | ldrbtImm | strbtImm => exact decode_layoutTransferImm
  | ldrtReg | strtReg | ldrbtReg | strbtReg => exact decode_layoutTransferReg
  | ldrImm | strImm | ldrbImm | strbImm =>
    exact decode_layoutTransferImm.trans (congrArg _ (if_neg (by simpa [WellFormed, or_iff_not_imp_left] using h)))
  | ldrReg | strReg | ldrbReg | strbReg =>
    exact decode_layoutTransferReg.trans (congrArg _ (if_neg (by simpa [WellFormed, or_iff_not_imp_left] using h)))
  | ldmia | ldmib | ldmda | ldmdb | stmia | stmib | stmda | stmdb => exact decode_layoutBlock
  | ldc | stc => exact decode_layoutCpTransfer
  | mrc | mcr => exact decode_layoutCpReg
  | undefinedArm2 c hi mid lo =>
    obtain rfl : v = .arm2 := by simpa [WellFormed] using h
    obtain ⟨hc, h24, hhi, h7, hmid, h4, hlo, h25, -, -⟩ := encode_undefinedArm2_fields c hi mid lo
    rw [decode_of_extension h25 h7 h4, decodeExtension_arm2 h24, hc, hhi, hmid, hlo, Cond.ofBits_bits]
  | undefined c hi lo =>
    obtain ⟨hc, h25, hhi, h4, hlo⟩ := encode_undefined_fields c hi lo
    rw [decode_of_undefined h25 h4, hc, hhi, hlo, Cond.ofBits_bits]
  | b =>
    rw [decode_of_branch (by simp [encode_b_fields])]
    simp [encode_b_fields]
  | bl =>
    rw [decode_of_branch (by simp [encode_bl_fields])]
    simp [encode_bl_fields]
  | mrs =>
    rw [WellFormed] at h
    rw [decode_of_psrReg (by simp [encode_mrs_fields]) (by simp [encode_mrs_fields])
      (by simp [inPsrSpace, encode_mrs_fields])]
    simp [decodePsrSpace, encode_mrs_fields, h]
  | msrReg =>
    rw [WellFormed] at h
    rw [decode_of_psrReg (by simp [encode_msrReg_fields]) (by simp [encode_msrReg_fields])
      (by simp [inPsrSpace, encode_msrReg_fields])]
    simp [decodePsrSpace, encode_msrReg_fields, h]
  | msrImm =>
    rw [WellFormed] at h
    rw [decode_of_psrImm (by simp [encode_msrImm_fields]) (by simp [inPsrSpace, encode_msrImm_fields])]
    simp [decodePsrSpace, encode_msrImm_fields, h]
  | cdp =>
    rw [decode_of_coprocessor (by simp [encode_cdp_fields])]
    simp [decodeCoprocessor, encode_cdp_fields]
  | swi =>
    rw [decode_of_coprocessor (by simp [encode_swi_fields])]
    simp [decodeCoprocessor, encode_swi_fields]

end Sys2Proof

open Sys2Proof in
/-- Settles O1: by the layout of the instruction, each read back field by field in the decoder's line for it. -/
theorem decodeInvertsEncode : Obligations.DecodeInvertsEncode := fun _ _ => decode_encode
end

section
/-!
PROOF. The words that a part rejects and the words of the undefined instructions, by the masks of the spec's table
(30_encoding R114, R127).
-/

namespace Sys2Proof

open Machine

section
variable {v : Variant} {c : Cond} {w : Word}

/-- Bits 27..25 = 000, bit 7 = 1 and bit 4 = 1, line 1 of the decoder (30_encoding R125). -/
def inExtension (w : Word) : Prop := field w 25 3 = 0#3 ∧ flag w 7 = true ∧ flag w 4 = true

/-- What makes a test with S clear an MRS (30_encoding R125 line 2.1). -/
def isMrs (w : Word) : Prop := flag w 25 = false ∧ field w 21 1 = 0#1 ∧ field w 16 4 = 15#4 ∧ field w 0 12 = 0#12

/-- What makes it an MSR from a register. -/
def isMsrReg (w : Word) : Prop := flag w 25 = false ∧ field w 21 1 = 1#1 ∧ field w 12 4 = 15#4 ∧ field w 4 8 = 0#8

/-- What makes it an MSR of an immediate. -/
def isMsrImm (w : Word) : Prop := flag w 25 = true ∧ field w 21 1 = 1#1 ∧ field w 12 4 = 15#4

/-! ## The spec's masks as fields -/

/-- A word under a mask has a value exactly when the fields of the mask, each given by its lowest bit, its length and
its number in the value, have these numbers. -/
theorem and_eq_iff_values {m x : Word} (fs : List (Nat × Nat × Nat))
    (hm : ∀ i < 32, m.getLsbD i = coveredBy (fs.map fun f => (f.1, f.2.1)) i) (hx : x &&& m = x)
    (hv : ∀ f ∈ fs, field x f.1 f.2.1 = BitVec.ofNat f.2.1 f.2.2) :
    w &&& m = x ↔ ∀ f ∈ fs, field w f.1 f.2.1 = BitVec.ofNat f.2.1 f.2.2 := by
  rw [and_eq_iff_fields _ hm hx, List.forall_mem_map]
  exact forall₂_congr fun f hf => by rw [hv f hf]

theorem field_one_eq_one {i : Nat} : field w i 1 = 1#1 ↔ flag w i = true := by
  rw [field_one]
  cases flag w i <;> decide

theorem field_one_eq_zero {i : Nat} : field w i 1 = 0#1 ↔ flag w i = false := by
  rw [field_one]
  cases flag w i <;> decide

theorem extension_mask_iff : w &&& 0x0E000090#32 = 0x00000090#32 ↔ inExtension w := by
  rw [and_eq_iff_values [(25, 3, 0), (7, 1, 1), (4, 1, 1)] (by decide) (by decide) (by decide)]
  simp [inExtension, field_one_eq_one]

theorem test_mask_iff : w &&& 0x0D900000#32 = 0x01000000#32 ↔ field w 26 2 = 0#2 ∧ inPsrSpace w = true := by
  rw [and_eq_iff_values [(26, 2, 0), (23, 2, 2), (20, 1, 0)] (by decide) (by decide) (by decide)]
  simp [inPsrSpace_iff, field_one_eq_zero]

theorem mul_mask_iff : w &&& 0x0FC000F0#32 = 0x00000090#32 ↔ field w 22 6 = 0#6 ∧ field w 4 4 = 9#4 := by
  rw [and_eq_iff_values [(22, 6, 0), (4, 4, 9)] (by decide) (by decide) (by decide)]
  simp

theorem longMul_mask_iff : w &&& 0x0F8000F0#32 = 0x00800090#32 ↔ field w 23 5 = 1#5 ∧ field w 4 4 = 9#4 := by
  rw [and_eq_iff_values [(23, 5, 1), (4, 4, 9)] (by decide) (by decide) (by decide)]
  simp

theorem swap_mask_iff : w &&& 0x0FB00FF0#32 = 0x01000090#32 ↔
    field w 23 5 = 2#5 ∧ field w 20 2 = 0#2 ∧ field w 4 8 = 9#8 := by
  rw [and_eq_iff_values [(23, 5, 2), (20, 2, 0), (4, 8, 9)] (by decide) (by decide) (by decide)]
  simp

theorem bits24_mask_iff : w &&& 0x0F000000#32 = 0x01000000#32 ↔ field w 24 4 = 1#4 := by
  rw [and_eq_iff_values [(24, 4, 1)] (by decide) (by decide) (by decide)]
  simp

theorem mrs_mask_iff (h26 : field w 26 2 = 0#2) (hp : inPsrSpace w = true) :
    w &&& 0x0FBF0FFF#32 = 0x010F0000#32 ↔ isMrs w := by
  obtain ⟨h23, h20⟩ := inPsrSpace_iff.mp hp
  rw [and_eq_iff_values [(26, 2, 0), (25, 1, 0), (23, 2, 2), (21, 1, 0), (20, 1, 0), (16, 4, 15), (0, 12, 0)]
    (by decide) (by decide) (by decide)]
  simp [isMrs, field_one_eq_zero, h26, h23, h20]

theorem msrReg_mask_iff (h26 : field w 26 2 = 0#2) (hp : inPsrSpace w = true) :
    w &&& 0x0FB0FFF0#32 = 0x0120F000#32 ↔ isMsrReg w := by
  obtain ⟨h23, h20⟩ := inPsrSpace_iff.mp hp
  rw [and_eq_iff_values [(26, 2, 0), (25, 1, 0), (23, 2, 2), (21, 1, 1), (20, 1, 0), (12, 4, 15), (4, 8, 0)]
    (by decide) (by decide) (by decide)]
  simp [isMsrReg, field_one_eq_zero, field_one_eq_one, h26, h23, h20]

theorem msrImm_mask_iff (h26 : field w 26 2 = 0#2) (hp : inPsrSpace w = true) :
    w &&& 0x0FB0F000#32 = 0x0320F000#32 ↔ isMsrImm w := by
  obtain ⟨h23, h20⟩ := inPsrSpace_iff.mp hp
  rw [and_eq_iff_values [(26, 2, 0), (25, 1, 1), (23, 2, 2), (21, 1, 1), (20, 1, 0), (12, 4, 15)]
    (by decide) (by decide) (by decide)]
  simp [isMsrImm, field_one_eq_zero, field_one_eq_one, h26, h23, h20]

theorem undefined_mask_iff : w &&& 0x0E000010#32 = 0x06000010#32 ↔ field w 25 3 = 3#3 ∧ flag w 4 = true := by
  rw [and_eq_iff_values [(25, 3, 3), (4, 1, 1)] (by decide) (by decide) (by decide)]
  simp [field_one_eq_one]

theorem undefinedArm2_mask_iff : w &&& 0x0F000090#32 = 0x01000090#32 ↔
    field w 24 4 = 1#4 ∧ flag w 7 = true ∧ flag w 4 = true := by
  rw [and_eq_iff_values [(24, 4, 1), (7, 1, 1), (4, 1, 1)] (by decide) (by decide) (by decide)]
  simp [field_one_eq_one]

/-! ## The words of the undefined patterns -/

/-- The later parts read the words with bits 27..24 = 0001 as swaps or not at all (30_encoding R114). -/
theorem decodeExtension_later (h24 : field w 24 4 = 1#4) (hv : v ≠ .arm2) :
    (∃ c' rn rd rm, decodeExtension v c w = .ok (.swp c' rn rd rm) ∨ decodeExtension v c w = .ok (.swpb c' rn rd rm)) ∨
      ∃ r, decodeExtension v c w = .error r := by
  obtain ⟨h22, h23⟩ := not_multiply_of_bit24 (flag_of_field h24 (j := 0) (by decide))
  fun_cases decodeExtension v c w with
  | case1 _ _ _ _ _ hm | case2 _ _ _ _ _ hm => exact absurd hm.1 h22
  | case3 _ _ _ _ _ _ hl | case4 _ _ _ _ _ _ hl | case5 _ _ _ _ _ _ hl | case6 _ _ _ _ _ _ hl => exact absurd hl.1 h23
  | case8 => exact .inl ⟨_, _, _, _, .inr rfl⟩
  | case9 => exact .inl ⟨_, _, _, _, .inl rfl⟩
  | case10 _ _ _ _ hu => exact absurd hu.1 hv
  | case7 | case11 => exact .inr ⟨_, rfl⟩

/-! ## The rejected words -/

/-- What line 1 of the decoder rejects (30_encoding R125 lines 1.2 and 1.5). -/
theorem decodeExtension_error_iff : (∃ r, decodeExtension v c w = .error r) ↔
    ¬(field w 22 6 = 0#6 ∧ field w 4 4 = 9#4) ∧ ¬((field w 23 5 = 1#5 ∧ field w 4 4 = 9#4) ∧ v.hasLongMul = true) ∧
    ¬((field w 23 5 = 2#5 ∧ field w 20 2 = 0#2 ∧ field w 4 8 = 9#8) ∧ v.hasSwp = true) ∧
    ¬(v = .arm2 ∧ field w 24 4 = 1#4) := by
  -- A long multiply the part lacks is no undefined instruction of the ARM 2: bit 24 tells them apart.
  have hlong (h : field w 23 5 = 1#5) : field w 24 4 ≠ 1#4 := fun h24 =>
    (not_multiply_of_bit24 (flag_of_field h24 (j := 0) (by decide))).2 h
  fun_cases decodeExtension v c w <;> simp_all

theorem PsrField.ofBits_eq_none_iff (b : BitVec 4) : PsrField.ofBits b = none ↔ b ≠ 1#4 ∧ b ≠ 8#4 ∧ b ≠ 9#4 := by
  revert b
  decide

/-- What line 2 of the decoder rejects: a word that is no MRS or MSR of the part, or an MSR with a reserved field
selector (30_encoding R127). -/
theorem decodePsrSpace_error_iff : (∃ r, decodePsrSpace v c w = .error r) ↔
    ¬(v.hasPsr32 = true ∧ (isMrs w ∨ isMsrReg w ∨ isMsrImm w)) ∨
    (v.hasPsr32 = true ∧ (isMsrReg w ∨ isMsrImm w) ∧ field w 16 4 ≠ 1#4 ∧ field w 16 4 ≠ 8#4 ∧ field w 16 4 ≠ 9#4) := by
  rw [← PsrField.ofBits_eq_none_iff]
  fun_cases decodePsrSpace v c w <;> simp_all [isMrs, isMsrReg, isMsrImm]

/-- Bits 27..26 = 00 are the two numbers of data processing in bits 27..25. -/
theorem field_26_iff : field w 26 2 = 0#2 ↔ field w 25 3 = 0#3 ∨ field w 25 3 = 1#3 := by
  rw [← show (field w 25 3).extractLsb' 1 2 = field w 26 2 from extractLsb'_field (by decide)]
  generalize field w 25 3 = x
  revert x
  decide

/-- Line 2 of the decoder is the same in both forms of data processing (30_encoding R125). -/
theorem decode_of_inPsrSpace (h26 : field w 26 2 = 0#2) (hp : inPsrSpace w = true) (hx : ¬inExtension w) :
    decode v w = decodePsrSpace v (Cond.ofBits (field w 28 4)) w := by
  rcases field_26_iff.mp h26 with h25 | h25
  · exact decode_of_psrReg h25 (by simpa [inExtension, h25] using hx) hp
  · exact decode_of_psrImm h25 hp

/-- Outside lines 1 and 2 the decoder rejects nothing. -/
theorem decode_ok_of_neither (hx : ¬inExtension w) (hp : ¬(field w 26 2 = 0#2 ∧ inPsrSpace w = true)) :
    ∃ i, decode v w = .ok i := by
  rw [field_26_iff] at hp
  fun_cases decode v w with
  | case1 _ h25 h74 => exact absurd ⟨h25, by simpa using h74⟩ hx
  | case2 _ h25 _ h => exact absurd ⟨.inl h25, h⟩ hp
  | case5 _ h25 h => exact absurd ⟨.inr h25, h⟩ hp
  | _ => exact ⟨_, rfl⟩

/-- The undefined instructions name no register, so the hazard does not hold them back (60_exceptions R358). -/
theorem exec_undefined_of_condPassed {s : State} {i : Instr}
    (hi : (∃ c hi lo, i = .undefined c hi lo) ∨ (∃ c hi mid lo, i = .undefinedArm2 c hi mid lo))
    (hc : condPassed i.cond s.psr = true) :
    exec i s = takeException .undefinedInstruction { s with hazard := false } := by
  have hready : s.ready i.cond [] = true := by simp [State.ready, hc, anyBanked]
  obtain ⟨c, hi, lo, rfl⟩ | ⟨c, hi, mid, lo, rfl⟩ := hi <;> exact instruction_ready hready _

end

end Sys2Proof

open Sys2Proof Sys2Proof.Machine in
/-- Settles O4: by the line of the decoder in which the word stands. -/
theorem unallocatedWordsExactly : Obligations.UnallocatedWordsExactly := by
  intro v w
  simp only [extension_mask_iff, test_mask_iff]
  by_cases hx : inExtension w
  case pos =>
    have ⟨h25, h7, h4⟩ := hx
    rw [decode_of_extension h25 h7 h4, decodeExtension_error_iff, ← mul_mask_iff, ← longMul_mask_iff,
      ← swap_mask_iff, ← bits24_mask_iff]
    simp [hx]
  by_cases hp : field w 26 2 = 0#2 ∧ inPsrSpace w = true
  case pos =>
    obtain ⟨h26, hp⟩ := hp
    rw [decode_of_inPsrSpace h26 hp hx, decodePsrSpace_error_iff, mrs_mask_iff h26 hp, msrReg_mask_iff h26 hp,
      msrImm_mask_iff h26 hp]
    simp [hx, h26, hp, ← show field w 16 4 = w.extractLsb' 16 4 from rfl]
  case neg =>
    obtain ⟨i, hi⟩ := decode_ok_of_neither (v := v) hx hp
    simp [hx, hp, hi]

open Sys2Proof Sys2Proof.Machine in
/-- Settles O5: the masks are the conditions of the decoder, and the meaning of both instructions is the trap. -/
theorem undefinedWordsDecode : Obligations.UndefinedWordsDecode := by
  refine ⟨fun v w h => ?undefined, fun v w h => ?later, fun i s => exec_undefined_of_condPassed⟩
  case undefined =>
    obtain ⟨h25, h4⟩ := undefined_mask_iff.mp h
    exact decode_of_undefined h25 h4
  case later =>
    obtain ⟨h24, h7, h4⟩ := undefinedArm2_mask_iff.mp h
    have h25 : field w 25 3 = 0#3 := by
      rw [← show (field w 24 4).extractLsb' 1 3 = field w 25 3 from extractLsb'_field (by decide), h24]
      rfl
    rw [decode_of_extension h25 h7 h4]
    refine ⟨?_, decodeExtension_later h24⟩
    rintro rfl
    exact decodeExtension_arm2 h24
end

section
/-!
PROOF. The conditions: what an instruction and a step do when the condition fails, the opposite of a condition, and the
conditions after a comparison (40_condition_codes R140 to R144).
-/

namespace Sys2Proof

open Machine

/-! ## The instruction whose condition fails -/

/-- Every instruction tests its condition before it does what is its own (40_condition_codes R141). -/
theorem exec_eq_conditional (i : Instr) : ∃ body, ∀ s, exec i s = conditional i.cond s body := by
  cases i <;> exact ⟨_, fun _ => rfl⟩

section
variable {c : Cond} {s : State} {v : Variant} {w : Word} {i : Instr}

/-- An operation whose condition fails moves on. -/
theorem conditional_failed (h : condPassed c s.psr = false) (body : State → Answer) :
    conditional c s body = .next { s with pc := s.successor, hazard := false } := by
  rw [conditional, h]
  rfl

theorem exec_of_cond_failed (h : condPassed i.cond s.psr = false) :
    exec i s = .next { s with pc := s.successor, hazard := false } := by
  obtain ⟨body, hbody⟩ := exec_eq_conditional i
  rw [hbody, conditional_failed h]

/-! ## The word whose condition fails -/

/-- The condition of an instruction is in the top four bits of its word (30_encoding R101). -/
theorem field_encode_cond (i : Instr) : field (encode i) 28 4 = i.cond.bits := by
  cases i with
  | mul | mla | umull | umlal | smull | smlal => exact (layoutMul_fields ..).1
  | swp | swpb => exact (layoutSwap_fields ..).1
  | undefinedArm2 => exact (encode_undefinedArm2_fields ..).1
  | undefined => exact (encode_undefined_fields ..).1
  | swi => exact (encode_swi_fields ..).1
  | mrs => exact (encode_mrs_fields ..).1
  | msrReg => exact (encode_msrReg_fields ..).1
  | msrImm => exact (encode_msrImm_fields ..).1
  | tstpImm | teqpImm | cmppImm | cmnpImm | tstImm | teqImm | cmpImm | cmnImm
  | andImm | eorImm | subImm | rsbImm | addImm | adcImm | sbcImm | rscImm | orrImm | movImm | bicImm | mvnImm =>
    exact (layoutDpImm_fields ..).1
  | tstpReg | teqpReg | cmppReg | cmnpReg | tstReg | teqReg | cmpReg | cmnReg
  | andReg | eorReg | subReg | rsbReg | addReg | adcReg | sbcReg | rscReg | orrReg | movReg | bicReg | mvnReg =>
    exact (layoutDpReg_fields ..).1
  | tstpRegShift | teqpRegShift | cmppRegShift | cmnpRegShift | tstRegShift | teqRegShift | cmpRegShift | cmnRegShift
  | andRegShift | eorRegShift | subRegShift | rsbRegShift | addRegShift | adcRegShift | sbcRegShift | rscRegShift
  | orrRegShift | movRegShift | bicRegShift | mvnRegShift => exact (layoutDpRegShift_fields ..).1
  | ldrtImm | strtImm | ldrbtImm | strbtImm | ldrImm | strImm | ldrbImm | strbImm =>
    exact (layoutTransferImm_fields ..).1
  | ldrtReg | strtReg | ldrbtReg | strbtReg | ldrReg | strReg | ldrbReg | strbReg =>
    exact (layoutTransferReg_fields ..).1
  | ldmia | ldmib | ldmda | ldmdb | stmia | stmib | stmda | stmdb => exact (layoutBlock_fields ..).1
  | b => exact (encode_b_fields ..).1
  | bl => exact (encode_bl_fields ..).1
  | ldc | stc => exact (layoutCpTransfer_fields ..).1
  | cdp => exact (encode_cdp_fields ..).1
  | mrc | mcr => exact (layoutCpReg_fields ..).1

/-- The condition of what a word decodes to is read off the word alone. -/
theorem cond_of_decode (h : decode v w = .ok i) : i.cond = Cond.ofBits (field w 28 4) := by
  rw [← encode_decode h, field_encode_cond, Cond.ofBits_bits]

/-- A word whose condition fails is passed over, whether or not the part allocates it (40_condition_codes R143). -/
theorem runWord_of_cond_failed (h : condPassed (Cond.ofBits (field w 28 4)) s.psr = false) :
    runWord w s = .next { s with pc := s.successor, hazard := false } := by
  cases hd : decode s.cfg.variant w with
  | ok i =>
    rw [runWord_ok hd]
    exact exec_of_cond_failed (by rwa [cond_of_decode hd])
  | error r =>
    rw [runWord, hd]
    exact conditional_failed h _

end

/-! ## The opposite condition -/

/-- The condition that passes exactly when the given one fails (40_condition_codes R142). -/
def Cond.opposite : Cond → Cond
  | .eq => .ne
  | .ne => .eq
  | .cs => .cc
  | .cc => .cs
  | .mi => .pl
  | .pl => .mi
  | .vs => .vc
  | .vc => .vs
  | .hi => .ls
  | .ls => .hi
  | .ge => .lt
  | .lt => .ge
  | .gt => .le
  | .le => .gt
  | .al => .nv
  | .nv => .al

/-- The numbers of a condition and of its opposite differ in bit 0. -/
theorem Cond.ofBits_xor_one (b : BitVec 4) : Cond.ofBits (b ^^^ 1#4) = (Cond.ofBits b).opposite := by
  revert b
  decide

theorem condPassed_opposite (c : Cond) (p : Psr) : condPassed c.opposite p = !condPassed c p := by
  cases c <;> simp [Cond.opposite, condPassed, bne]

/-! ## The conditions after a comparison -/

/-- A test that is ready and has no R15 in a register-specified shift writes the flags of its operation and moves on
(41_data_processing R174 to R177). -/
theorem exec_testInstr_ready {k : TestOp} {c : Cond} {rn rd : Reg} {o : Op2} {s : State}
    (hs : s.ready c (rn :: o.regs) = true) (ho : shiftsWithR15 o [rn] = false) :
    exec (testInstr k c rn rd o) s =
      .next { s with psr := pcodePsr k.op (s.reg rn) (s.shifterOperand o).value (s.shifterOperand o).carry s.psr,
                     pc := s.successor, hazard := false } := by
  rw [exec_testInstr, dataTest, instruction_ready hs, Op2.refusal_eq, ho, ← State.aluResult_psr]
  rfl

section
variable {a b : Word} {sc : Bool} {p : Psr}

/-- Z after CMP is equality. -/
theorem condPassed_eq_of_cmp : condPassed .eq (pcodePsr .sub a b sc p) = decide (a = b) :=
  decide_eq_decide.2 sub_eq_zero

/-- C after CMP is "no borrow", the unsigned order (41_data_processing R176). -/
theorem condPassed_cs_of_cmp : condPassed .cs (pcodePsr .sub a b sc p) = decide (b.toNat ≤ a.toNat) := rfl

theorem condPassed_hi_of_cmp : condPassed .hi (pcodePsr .sub a b sc p) = decide (b.toNat < a.toNat) := by
  calc condPassed .hi (pcodePsr .sub a b sc p)
      = (condPassed .cs (pcodePsr .sub a b sc p) && !condPassed .eq (pcodePsr .sub a b sc p)) := rfl
    _ = decide (b.toNat < a.toNat) := by
      rw [condPassed_cs_of_cmp, condPassed_eq_of_cmp, ← decide_not, ← Bool.decide_and, decide_eq_decide,
        ← BitVec.toNat_inj]
      omega

/-- N and V after CMP are the same exactly when the first operand is not the lower one, signed: with the exact
difference in range N is its sign, else the opposite of its sign (40_condition_codes R144). -/
theorem condPassed_ge_of_cmp : condPassed .ge (pcodePsr .sub a b sc p) = decide (b.toInt ≤ a.toInt) := by
  have hsign : (a - b).msb = decide ((a.toInt - b.toInt).bmod (2 ^ 32) < 0) := by
    rw [BitVec.msb_eq_toInt, BitVec.toInt_sub]
  have ha := a.toInt_lt
  have ha' := a.le_toInt
  have hb := b.toInt_lt
  have hb' := b.le_toInt
  simp only [condPassed, pcodePsr, pcode, pcodeOverflow, overflows, hsign, Int.bmod_def]
  rw [Bool.eq_iff_iff]
  simp only [beq_iff_eq, decide_eq_decide, decide_eq_true_eq]
  omega

theorem condPassed_gt_of_cmp : condPassed .gt (pcodePsr .sub a b sc p) = decide (b.toInt < a.toInt) := by
  calc condPassed .gt (pcodePsr .sub a b sc p)
      = (condPassed .ge (pcodePsr .sub a b sc p) && !condPassed .eq (pcodePsr .sub a b sc p)) := rfl
    _ = decide (b.toInt < a.toInt) := by
      rw [condPassed_ge_of_cmp, condPassed_eq_of_cmp, ← decide_not, ← Bool.decide_and, decide_eq_decide,
        ← BitVec.toInt_inj]
      omega

/-- The opposite of a condition that says `P` of the operands says the opposite of `P`. -/
theorem condPassed_opposite_eq_decide {c : Cond} {p : Psr} {P Q : Prop} [Decidable P] [Decidable Q]
    (h : condPassed c p = decide P) (hq : ¬P ↔ Q) : condPassed c.opposite p = decide Q := by
  rw [condPassed_opposite, h, ← decide_not, decide_eq_decide, hq]

end

end Sys2Proof

open Sys2Proof Sys2Proof.Machine in
/-- Settles O10: five conditions by the flags of the difference, the other five as their opposites. -/
theorem comparisonConditions : Obligations.ComparisonConditions := by
  intro c rn rd o s hs ho
  exact ⟨_, exec_testInstr_ready hs ho, condPassed_eq_of_cmp, condPassed_opposite_eq_decide condPassed_eq_of_cmp Iff.rfl,
    condPassed_cs_of_cmp, condPassed_opposite_eq_decide condPassed_cs_of_cmp Nat.not_le,
    condPassed_hi_of_cmp, condPassed_opposite_eq_decide condPassed_hi_of_cmp Nat.not_lt,
    condPassed_ge_of_cmp, condPassed_opposite_eq_decide condPassed_ge_of_cmp Int.not_le,
    condPassed_gt_of_cmp, condPassed_opposite_eq_decide condPassed_gt_of_cmp Int.not_lt⟩

open Sys2Proof Sys2Proof.Machine in
/-- Settles O8: every instruction tests its condition first. -/
theorem failedConditionOfEveryInstruction : Obligations.FailedConditionOfEveryInstruction :=
  fun _ _ => exec_of_cond_failed

open Sys2Proof Sys2Proof.Machine in
/-- Settles O7: the condition is read off the word before anything else of it. -/
theorem failedConditionStep : Obligations.FailedConditionStep := fun _ _ hu hw hc =>
  (step_of_fetches hu hw).trans (runWord_of_cond_failed hc)

open Sys2Proof Sys2Proof.Machine in
/-- Settles O6: the step is the word fetched, which is the instruction that it decodes to. -/
theorem stepRunsDecodedInstruction : Obligations.StepRunsDecodedInstruction := fun _ _ _ hu hw hd =>
  ⟨decode_wellFormed hd, (step_of_fetches hu hw).trans (runWord_ok hd)⟩

open Sys2Proof Sys2Proof.Machine in
/-- Settles O9: exclusive-or with 1 names the opposite condition. -/
theorem oppositeConditions : Obligations.OppositeConditions := fun b p => by
  rw [Cond.ofBits_xor_one, condPassed_opposite]
end

section
/-!
PROOF. The shifter bit by bit (41_data_processing R151 to R158). The value of a shift by any amount, over 31 too, is the
shift of words of the library; the bits and the carries follow from that.
-/

namespace Sys2Proof.Machine

/-! ## The shifts by an amount that is taken as it is -/

section
variable (v : Word) (n : Nat) (c : Bool)

theorem shiftBy_zero (sh : ShiftType) : shiftBy sh v 0 c = ⟨v, c⟩ := by
  cases sh <;> rfl

theorem shiftLsl_value : (shiftLsl v n c).value = v <<< n := by
  fun_cases shiftLsl v n c with
  | case1 h => subst h; exact (BitVec.shiftLeft_zero v).symm
  | case2 => rfl
  | case3 | case4 => exact (BitVec.shiftLeft_eq_zero (by omega)).symm

theorem shiftLsr_value : (shiftLsr v n c).value = v >>> n := by
  fun_cases shiftLsr v n c with
  | case1 h => subst h; exact (BitVec.ushiftRight_zero v).symm
  | case2 => rfl
  | case3 | case4 => exact (BitVec.ushiftRight_eq_zero (by omega)).symm

/-- A bit of an arithmetic shift right is the bit `n` higher, or the sign when there is none. -/
theorem getLsbD_sshiftRight_eq_min {j : Nat} (hj : j < 32) :
    (v.sshiftRight n).getLsbD j = v.getLsbD (min (j + n) 31) := by
  rw [BitVec.getLsbD_sshiftRight, BitVec.msb_eq_getLsbD_last, Nat.add_comm n j]
  split
  · rw [Nat.min_eq_left (by omega)]; simp [hj]
  · rw [Nat.min_eq_right (by omega)]; simp [hj]

theorem shiftAsr_value : (shiftAsr v n c).value = v.sshiftRight n := by
  fun_cases shiftAsr v n c with
  | case1 h => subst h; exact BitVec.sshiftRight_zero.symm
  | case2 => rfl
  | case3 =>
    refine BitVec.eq_of_getLsbD_eq fun j hj => ?_
    rw [getLsbD_sshiftRight_eq_min v n hj, Nat.min_eq_right (by omega)]
    cases v.getLsbD 31 with
    | false => simp
    | true => exact (BitVec.getLsbD_allOnes (v := 32)).trans (decide_eq_true hj)

theorem shiftRor_value : (shiftRor v n c).value = v.rotateRight n := by
  fun_cases shiftRor v n c with
  | case1 h => simp [BitVec.rotateRight_def, h]
  | case2 _ k hk => simp [BitVec.rotateRight_def, show n % 32 = 0 from hk]
  | case3 => exact BitVec.rotateRight_def.symm

theorem getLsbD_rotateRight_eq_mod {j : Nat} (hj : j < 32) :
    (v.rotateRight n).getLsbD j = v.getLsbD ((j + n) % 32) := by
  rw [BitVec.getLsbD_rotateRight]
  by_cases h : j < 32 - n % 32
  · rw [decide_eq_true h, cond_true]
    congr 1; omega
  · rw [decide_eq_false h, cond_false, decide_eq_true hj, Bool.true_and]
    congr 1; omega

variable {n}

theorem shiftLsl_carry (hn : 0 < n) : (shiftLsl v n c).carry = (decide (n ≤ 32) && v.getLsbD (32 - n)) := by
  fun_cases shiftLsl v n c with
  | case1 => omega
  | case2 => simp [show n ≤ 32 by omega]
  | case3 _ _ h => subst h; rfl
  | case4 => simp [show ¬n ≤ 32 by omega]

theorem shiftLsr_carry (hn : 0 < n) : (shiftLsr v n c).carry = v.getLsbD (n - 1) := by
  fun_cases shiftLsr v n c with
  | case1 => omega
  | case2 => rfl
  | case3 _ _ h => subst h; rfl
  | case4 => exact (BitVec.getLsbD_of_ge v _ (by omega)).symm

theorem shiftAsr_carry (hn : 0 < n) : (shiftAsr v n c).carry = v.getLsbD (min (n - 1) 31) := by
  fun_cases shiftAsr v n c with
  | case1 => omega
  | case2 => rw [Nat.min_eq_left (by omega)]
  | case3 => rw [Nat.min_eq_right (by omega)]

/-- The last bit that a rotation moves out at the bottom is the one it moves in at the top (41_data_processing R155). -/
theorem shiftRor_carry_eq_top (hn : 0 < n) : (shiftRor v n c).carry = (shiftRor v n c).value.getLsbD 31 := by
  fun_cases shiftRor v n c with
  | case1 => omega
  | case2 | case3 => rfl

theorem shiftRor_carry (hn : 0 < n) : (shiftRor v n c).carry = v.getLsbD ((n + 31) % 32) := by
  rw [shiftRor_carry_eq_top v c hn, shiftRor_value, getLsbD_rotateRight_eq_mod v n (by decide), Nat.add_comm]

/-! ## The second operand -/

/-- RRX moves the carry in at the top and every other bit down by one (41_data_processing R156). -/
theorem shiftRrx_value_bit {j : Nat} (hj : j < 32) :
    (shiftRrx v c).value.getLsbD j = if j = 31 then c else v.getLsbD (j + 1) := by
  rw [shiftRrx, BitVec.getLsbD_append]
  by_cases h : j = 31
  · subst h; simp
  · rw [if_pos (show j < 31 by omega), if_neg h, getLsbD_field (by omega), Nat.add_comm]

/-- A constant amount other than 0 is taken as it is (41_data_processing R151). -/
theorem shiftConst_of_ne_zero {amt : BitVec 5} (h : amt ≠ 0#5) (sh : ShiftType) :
    shiftConst sh v amt c = shiftBy sh v amt.toNat c := by
  cases sh with
  | lsl => rfl
  | lsr | asr | ror => simp only [shiftConst, shiftBy, if_neg h]

end

/-- An immediate is its eight bits rotated right by twice the rotation field (41_data_processing R158). -/
theorem immOperand_value_bit (rot : BitVec 4) (imm : BitVec 8) (c : Bool) {j : Nat} (hj : j < 32) :
    (immOperand rot imm c).value.getLsbD j = imm.getLsbD ((j + 2 * rot.toNat) % 32) := by
  rw [immOperand, shiftRor_value, getLsbD_rotateRight_eq_mod _ _ hj, BitVec.getLsbD_setWidth,
    decide_eq_true (Nat.mod_lt _ (by decide)), Bool.true_and]

theorem immOperand_carry (rot : BitVec 4) (imm : BitVec 8) (c : Bool) :
    (immOperand rot imm c).carry = if rot = 0#4 then c else (immOperand rot imm c).value.getLsbD 31 := by
  split
  next h => subst h; rfl
  next h =>
    have hpos : 0 < rot.toNat := Nat.pos_of_ne_zero fun h0 => h (BitVec.eq_of_toNat_eq h0)
    exact shiftRor_carry_eq_top _ c (by omega)

/-- The amount of a register-specified shift is the low byte of Rc (41_data_processing R157). -/
theorem State.shifterOperand_regShift (s : State) (rs rm : Reg) (sh : ShiftType) :
    s.shifterOperand (.regShift rs sh rm) = shiftBy sh (s.rmValue rm) ((s.reg rs).toNat % 256) s.psr.c := by
  rw [State.shifterOperand, BitVec.toNat_setWidth]

end Sys2Proof.Machine

open Sys2Proof.Machine in
/-- Settles O32: the value is the shift of words, read bit by bit; the carry by the range of the amount. -/
theorem shiftsBitByBit : Obligations.ShiftsBitByBit := by
  refine fun v n c => ⟨shiftBy_zero v c, fun hn => ⟨fun j hj => ?lsl, shiftLsl_carry v c hn, fun j _ => ?lsr,
    shiftLsr_carry v c hn, fun j hj => ?asr, shiftAsr_carry v c hn, fun j hj => ?ror, shiftRor_carry v c hn⟩⟩
  case lsl =>
    rw [shiftBy, shiftLsl_value, BitVec.getLsbD_shiftLeft, decide_eq_true hj, Bool.true_and, ← decide_not]
    simp only [Nat.not_lt]
  case lsr => rw [shiftBy, shiftLsr_value, BitVec.getLsbD_ushiftRight, Nat.add_comm]
  case asr => rw [shiftBy, shiftAsr_value, getLsbD_sshiftRight_eq_min v n hj]
  case ror => rw [shiftBy, shiftRor_value, getLsbD_rotateRight_eq_mod v n hj]

open Sys2Proof.Machine in
/-- Settles O33: a constant amount by whether it is 0, and an immediate as a rotation of its eight bits. -/
theorem constantShiftsAndImmediates : Obligations.ConstantShiftsAndImmediates :=
  ⟨fun v _ c hamt => shiftConst_of_ne_zero v c hamt,
    fun v c => ⟨rfl, rfl, rfl, rfl, fun _ hj => shiftRrx_value_bit v c hj⟩,
    fun s rs rm sh => s.shifterOperand_regShift rs rm sh,
    fun _ rot imm => ⟨fun _ hj => immOperand_value_bit rot imm _ hj, immOperand_carry rot imm _⟩⟩
end

section
/-!
PROOF. The data processing instructions and the P forms (41_data_processing R161 to R189): what each answers when it is
ready, as a refusal, a result in Rd, a write of R15, or a PSR.
-/

namespace Sys2Proof.Machine

/-! ## A result in Rd -/

theorem State.setResult_onlyRegs (s : State) (sb : Bool) (rd : Reg) (r : AluResult) :
    onlyRegs s (s.setResult sb rd r) [rd] := fun p hp => by
  rw [State.setResult_regs]
  exact s.onlyRegs_setReg rd r.value p hp

theorem State.setResult_mode (s : State) (sb : Bool) (rd : Reg) (r : AluResult) :
    (s.setResult sb rd r).psr.mode = s.psr.mode := by
  cases sb <;> simp

theorem State.reg_setResult_same (s : State) (sb : Bool) (rd : Reg) (r : AluResult) (h : rd ≠ 15#4) :
    (s.setResult sb rd r).reg rd = r.value := by
  rw [← s.reg_setReg_same rd r.value h]
  exact State.reg_congr rd h (by rw [State.setResult_mode, State.setReg_psr]) fun p _ => by rw [State.setResult_regs]

/-! ## What a write of R15 answers -/

section
variable {s : State} {u : Refusal} {v : Word} {b : ExcBank} {m : Mode}

theorem State.pcTarget_26 (h : s.mode26 = true) : s.pcTarget v = v &&& 0x03FFFFFC#32 := if_pos h

theorem State.pcTarget_32 (h : s.mode26 = false) : s.pcTarget v = v &&& 0xFFFFFFFC#32 := by
  simp [State.pcTarget, h]

/-- In a 26-bit mode a write of R15 is a jump, and with S the PSR too (41_data_processing R188). -/
theorem State.writeR15_26 (h : s.mode26 = true) (sb : Bool) : s.writeR15 u sb v =
    .ok { s with pc := v &&& 0x03FFFFFC#32, psr := if sb then r15Psr s.psr v else s.psr } := by
  cases sb with
  | false => simp [State.writeR15, State.writePc, State.pcTarget_26 h]
  | true => simp [State.writeR15, State.writePc, State.pcTarget_26 h, h, Psr.writeR15_eq]

theorem State.writeR15_32_jump (h : s.mode26 = false) :
    s.writeR15 u false v = .ok { s with pc := v &&& 0xFFFFFFFC#32 } := by
  simp [State.writeR15, State.writePc, State.pcTarget_32 h]

/-- User mode has no SPSR to restore (41_data_processing R189). -/
theorem State.writeR15_32_user (h : s.mode26 = false) (hb : s.psr.mode.bank = none) :
    s.writeR15 u true v = .error (.refuse u) := by
  simp [State.writeR15, h, hb]

theorem State.writeR15_32_undefined (h : s.mode26 = false) (hb : s.psr.mode.bank = some b)
    (hm : Mode.ofBits (s.spsrs.read b).m = none) : s.writeR15 u true v = .error (.fault .undefinedMode) := by
  simp [State.writeR15, h, hb, hm]

/-- A restored 26-bit mode keeps `pc` in its range (10_state R38). -/
theorem State.writeR15_32_restore (h : s.mode26 = false) (hb : s.psr.mode.bank = some b)
    (hm : Mode.ofBits (s.spsrs.read b).m = some m) : s.writeR15 u true v =
      if m.is26 = true ∧ 2 ^ 26 ≤ (v &&& 0xFFFFFFFC#32).toNat then .error (.refuse .pcOutOf26BitRange)
      else .ok { s with pc := v &&& 0xFFFFFFFC#32, psr := (s.spsrs.read b).restore m } := by
  simp only [State.writeR15, State.writePc, h, hb, hm, State.pcTarget_32 h, Bool.not_true, Bool.false_eq_true, if_false,
    Bool.and_eq_true, decide_eq_true_eq]

/-- The modes without registers of their own are the user modes (10_state R22, R36). -/
theorem Mode.bank_of_not_privileged (h : m.privileged = false) : m.bank = none := by
  revert h
  cases m <;> decide

end

/-! ## What the instructions answer when they are ready -/

section
variable {op : AluOp} {k : TestOp} {c : Cond} {sb : Bool} {rn rd : Reg} {o : Op2} {s : State}

/-- R15 is no register of R8 to R14, so the hazard does not look at it (70_reset R412). -/
theorem State.ready_fifteen {rs : List Reg} (h : s.ready c rs = true) : s.ready c (15#4 :: rs) = true := h

/-- R15 in a register-specified shift is refused; else R15 is written as a jump, and any other register as a register
(41_data_processing R157, R161). -/
theorem exec_dpInstr_ready (hs : s.ready c (rd :: rnRead op rn ++ o.regs) = true) :
    exec (dpInstr op c sb rn rd o) s = refuseIf (o.refusal (rnRead op rn))
      (let t : State := { s with hazard := false }
       if rd = 15#4 then andThen t (t.writeR15 .statusRestoreInUser32 sb (s.aluResult op rn o).value) .next
       else .next (t.setResult sb rd (s.aluResult op rn o)).advance) := by
  rw [exec_dpInstr]
  exact instruction_ready hs _

theorem exec_dpInstr_refused (hs : s.ready c (rd :: rnRead op rn ++ o.regs) = true)
    (ho : shiftsWithR15 o (rnRead op rn) = true) :
    exec (dpInstr op c sb rn rd o) s = .refused .r15WithRegisterShift := by
  rw [exec_dpInstr_ready hs, Op2.refusal_eq, if_pos ho, refuseIf]

theorem exec_dpInstr_result (hs : s.ready c (rd :: rnRead op rn ++ o.regs) = true) (hrd : rd ≠ 15#4)
    (ho : shiftsWithR15 o (rnRead op rn) = false) : exec (dpInstr op c sb rn rd o) s =
      .next (({ s with hazard := false } : State).setResult sb rd (s.aluResult op rn o)).advance := by
  rw [exec_dpInstr_ready hs, Op2.refusal_eq, ho]
  exact if_neg hrd

/-- A result for R15 is written as `State.writeR15` says (41_data_processing R188, R189). -/
theorem exec_dpInstr_fifteen (hs : s.ready c (rnRead op rn ++ o.regs) = true)
    (ho : shiftsWithR15 o (rnRead op rn) = false) : exec (dpInstr op c sb rn 15#4 o) s =
      andThen { s with hazard := false } (({ s with hazard := false } : State).writeR15 .statusRestoreInUser32 sb
        (pcode op (s.reg rn) (s.shifterOperand o).value s.psr.c)) .next := by
  rw [exec_dpInstr_ready (State.ready_fifteen hs), Op2.refusal_eq, ho, State.aluResult_value]
  rfl

theorem exec_dpInstr_fifteen_of_ok {t : State} (hs : s.ready c (rnRead op rn ++ o.regs) = true)
    (ho : shiftsWithR15 o (rnRead op rn) = false)
    (h : ({ s with hazard := false } : State).writeR15 .statusRestoreInUser32 sb
      (pcode op (s.reg rn) (s.shifterOperand o).value s.psr.c) = .ok t) :
    exec (dpInstr op c sb rn 15#4 o) s = .next t := by
  rw [exec_dpInstr_fifteen hs ho, h, andThen]

theorem exec_dpInstr_fifteen_of_error {e : Stop} (hs : s.ready c (rnRead op rn ++ o.regs) = true)
    (ho : shiftsWithR15 o (rnRead op rn) = false)
    (h : ({ s with hazard := false } : State).writeR15 .statusRestoreInUser32 sb
      (pcode op (s.reg rn) (s.shifterOperand o).value s.psr.c) = .error e) :
    exec (dpInstr op c sb rn 15#4 o) s = stopWith { s with hazard := false } e := by
  rw [exec_dpInstr_fifteen hs ho, h, andThen]

theorem exec_testInstr_refused (hs : s.ready c (rn :: o.regs) = true) (ho : shiftsWithR15 o [rn] = true) :
    exec (testInstr k c rn rd o) s = .refused .r15WithRegisterShift := by
  rw [exec_testInstr, dataTest, instruction_ready hs, Op2.refusal_eq, if_pos ho, refuseIf]

/-- In a 32-bit mode a P form is refused whatever its operands (41_data_processing R187). -/
theorem exec_testPInstr_32 (hs : s.ready c (rn :: o.regs) = true) (h : s.mode26 = false) :
    exec (testPInstr k c rn o) s = .refused .pFormIn32BitMode := by
  rw [exec_testPInstr, dataTestP, instruction_ready hs]
  exact if_pos (by rw [Bool.not_eq_true']; exact h)

/-- The successor of `pc` is the same in every 26-bit mode (10_state R32). -/
theorem State.successor_psr_26 {p : Psr} (h : s.mode26 = true) (hp : p.mode.is26 = true) :
    ({ s with psr := p } : State).successor = s.successor :=
  (if_pos hp).trans (if_pos h).symm

/-- In a 26-bit mode a P form writes the PSR as R15 holds it, which names a 26-bit mode again (41_data_processing
R186). -/
theorem exec_testPInstr_26 (hs : s.ready c (rn :: o.regs) = true) (h : s.mode26 = true) :
    exec (testPInstr k c rn o) s = refuseIf (o.refusal [rn])
      (let p := r15Psr s.psr (pcode k.op (s.reg rn) (s.shifterOperand o).value s.psr.c)
       .next { s with psr := p, pc := s.successor, hazard := decide (p.mode ≠ s.psr.mode) }) := by
  have hp := Psr.writeR15_is26 s.psr (s.aluResult k.op rn o).value h
  rw [Psr.writeR15_eq, State.aluResult_value] at hp
  rw [exec_testPInstr, dataTestP, instruction_ready hs, ← State.successor_psr_26 h hp, ← State.aluResult_value,
    ← Psr.writeR15_eq]
  exact if_neg (by rw [Bool.not_eq_true', Bool.not_eq_false]; exact h)

theorem exec_testPInstr_ready (hs : s.ready c (rn :: o.regs) = true) (h : s.mode26 = true)
    (ho : shiftsWithR15 o [rn] = false) : exec (testPInstr k c rn o) s =
      (let p := r15Psr s.psr (pcode k.op (s.reg rn) (s.shifterOperand o).value s.psr.c)
       .next { s with psr := p, pc := s.successor, hazard := decide (p.mode ≠ s.psr.mode) }) := by
  rw [exec_testPInstr_26 hs h, Op2.refusal_eq, ho]
  rfl

theorem exec_testPInstr_refused (hs : s.ready c (rn :: o.regs) = true) (h : s.mode26 = true)
    (ho : shiftsWithR15 o [rn] = true) : exec (testPInstr k c rn o) s = .refused .r15WithRegisterShift := by
  rw [exec_testPInstr_26 hs h, Op2.refusal_eq, if_pos ho, refuseIf]

end

end Sys2Proof.Machine

open Sys2Proof.Machine in
/-- Settles O25: the result in Rd, with S the PSR of the table, and `pc` on in the same mode. -/
theorem dataProcessingResult : Obligations.DataProcessingResult := by
  intro op c sb rn rd o s hs hrd ho
  refine ⟨_, exec_dpInstr_result hs hrd ho, ?reg, ?regs, ?psr, ?pc, ?hazard, ?system, ?bytes⟩
  case reg => rw [State.reg_advance _ _ hrd, State.reg_setResult_same _ _ _ _ hrd, State.aluResult_value]
  case regs => exact State.setResult_onlyRegs { s with hazard := false } sb rd _
  case psr => rw [State.advance_psr, State.setResult_psr, ← State.aluResult_psr]
  case pc => exact State.successor_congr (State.setResult_mode ..) (State.setResult_pc ..)
  case hazard => exact State.setResult_hazard ..
  case system => simp [sameSystem]
  case bytes => simp [sameBytes, State.byte]

/-- Settles O26: a test writes the flags of its operation and moves on, as the comparisons use it. -/
theorem testResult : Obligations.TestResult := fun _ _ _ _ _ _ => Sys2Proof.exec_testInstr_ready

open Sys2Proof.Machine in
/-- Settles O27: the PSR written names a 26-bit mode again, so `pc` goes on as before. -/
theorem pFormWritesPsr : Obligations.PFormWritesPsr := fun _ _ _ _ _ => exec_testPInstr_ready

open Sys2Proof.Machine in
/-- Settles O28: the mode is looked at before the operands. -/
theorem pFormRefusedIn32BitModes : Obligations.PFormRefusedIn32BitModes := fun _ _ _ _ _ => exec_testPInstr_32

open Sys2Proof.Machine in
/-- Settles O29: R15 of a 26-bit mode is `pc` and PSR at once. -/
theorem writeToR15In26BitModes : Obligations.WriteToR15In26BitModes := fun _ _ sb _ _ s hs h26 ho =>
  exec_dpInstr_fifteen_of_ok hs ho (State.writeR15_26 (s := { s with hazard := false }) h26 sb)

open Sys2Proof.Machine in
/-- Settles O30: without S a jump; with S by the bank of the mode, and by the mode that its SPSR names. -/
theorem writeToR15In32BitModes : Obligations.WriteToR15In32BitModes := by
  intro op c rn o s hs h32 ho r
  have hmode : ({ s with hazard := false } : State).mode26 = false := h32
  refine ⟨?jump, fun hu => ?user, fun b hb => ⟨fun hm => ?undefined, fun m hm =>
    ⟨fun hpc => ?range, fun hpc => ?restore⟩⟩⟩
  case jump => exact exec_dpInstr_fifteen_of_ok hs ho (State.writeR15_32_jump hmode)
  case user =>
    exact exec_dpInstr_fifteen_of_error hs ho (State.writeR15_32_user hmode (Mode.bank_of_not_privileged hu))
  case undefined => exact exec_dpInstr_fifteen_of_error hs ho (State.writeR15_32_undefined hmode hb hm)
  case range =>
    exact exec_dpInstr_fifteen_of_error hs ho ((State.writeR15_32_restore hmode hb hm).trans (if_pos hpc))
  case restore =>
    exact exec_dpInstr_fifteen_of_ok hs ho ((State.writeR15_32_restore hmode hb hm).trans (if_neg hpc))

open Sys2Proof.Machine in
/-- Settles O31: each of the three families refuses its operand before it computes anything. -/
theorem r15WithRegisterShiftRefused : Obligations.R15WithRegisterShiftRefused :=
  ⟨fun _ _ _ _ _ _ _ => exec_dpInstr_refused,
    fun _ _ _ _ _ _ hs ho => ⟨exec_testInstr_refused hs ho, fun h26 => exec_testPInstr_refused hs h26 ho⟩⟩
end

section
/-!
PROOF. Branch, and branch with link (42_branch R200 to R202): the target as a number, the link as it reads from R14, and
what the two instructions answer.
-/

namespace Sys2Proof.Machine

section
variable {s : State} {c : Cond} {off : BitVec 24}

/-! ## The target -/

/-- The sum of the target before it is cut to the address space: the arithmetic of words is that of the integers, and
the sign extension is the offset itself (42_branch R200). -/
theorem branchSum_eq_ofInt (a : Word) (off : BitVec 24) :
    a + 8#32 + 4#32 * off.signExtend 32 = BitVec.ofInt 32 ((a.toNat : Int) + 8 + 4 * off.toInt) := by
  have ha : BitVec.ofInt 32 (a.toNat : Int) = a := by rw [BitVec.ofInt_natCast, BitVec.ofNat_toNat, BitVec.setWidth_eq]
  rw [BitVec.ofInt_add, BitVec.ofInt_add, BitVec.ofInt_mul, ha]
  rfl

theorem branchSum_toNat (a : Word) (off : BitVec 24) :
    ((a + 8#32 + 4#32 * off.signExtend 32).toNat : Int) = ((a.toNat : Int) + 8 + 4 * off.toInt) % 2 ^ 32 := by
  rw [branchSum_eq_ofInt, BitVec.toNat_ofInt]
  exact Int.toNat_of_nonneg (Int.emod_nonneg _ (by decide))

/-- The address space of a 26-bit mode divides the words, so its wrap is all that is seen (42_branch R200). -/
theorem State.branchTarget_toNat (s : State) (off : BitVec 24) : ((s.branchTarget off).toNat : Int) =
    ((s.pc.toNat : Int) + 8 + 4 * off.toInt) % (if s.mode26 then 2 ^ 26 else 2 ^ 32) := by
  have hsum := branchSum_toNat s.pc off
  unfold State.branchTarget
  cases s.mode26 with
  | true =>
    simp only [if_true, and_26_toNat]
    omega
  | false => exact hsum

/-! ## The link -/

theorem State.linkValue_26 (h : s.mode26 = true) : s.linkValue = s.r15With (s.pc + 4#32) := if_pos h

theorem State.linkValue_32 (h : s.mode26 = false) : s.linkValue = s.pc + 4#32 := by
  simp [State.linkValue, h]

/-- The PC field of R15 stands where it stands in an address (10_state R26). -/
theorem State.r15With_address (s : State) (a : Word) :
    (s.r15With a).extractLsb' 2 24 = a.extractLsb' 2 24 := by
  ext i hi
  simp only [State.r15With, field, BitVec.getElem_extractLsb', BitVec.getLsbD_append]
  simp [hi, show 1 < 2 + i by omega]

/-! ## What the instructions answer -/

/-- B names no register, so the hazard does not look at it (70_reset R412). -/
theorem exec_b_passed (h : condPassed c s.psr = true) :
    exec (.b c off) s = .next { s with pc := s.branchTarget off, hazard := false } :=
  have hs : s.ready c [] = true := by simpa [State.ready, anyBanked] using h
  instruction_ready hs fun s => .next { s with pc := s.branchTarget off }

/-- The state after BL (42_branch R202). -/
def State.linked (s : State) (off : BitVec 24) : State :=
  { ({ s with hazard := false } : State).setReg 14#4 s.linkValue with pc := s.branchTarget off }

theorem exec_bl_ready (hs : s.ready c [14#4] = true) : exec (.bl c off) s = .next (s.linked off) :=
  instruction_ready hs fun s => .next { s.setReg 14#4 s.linkValue with pc := s.branchTarget off }

theorem State.reg_linked (s : State) (off : BitVec 24) : (s.linked off).reg 14#4 = s.linkValue := by
  rw [State.linked, State.reg_with_pc _ _ _ (by decide), State.reg_setReg_same _ _ _ (by decide)]

end

end Sys2Proof.Machine

open Sys2Proof.Machine in
/-- Settles O35: the target is the sum of the spec, wrapped at the end of the mode's address space. -/
theorem branchResult : Obligations.BranchResult := fun _ off s h =>
  ⟨_, exec_b_passed h, rfl, s.branchTarget_toNat off⟩

open Sys2Proof.Machine in
/-- Settles O36: the link is R15 of the next instruction as its mode holds it, and the jump is that of B. -/
theorem branchWithLinkResult : Obligations.BranchWithLinkResult := by
  intro c off s hs
  refine ⟨_, exec_bl_ready hs, ?regs, ?psr, ?hazard, ?system, ?bytes, fun h32 => ?link32, fun h26 => ?link26,
    s.branchTarget_toNat off⟩
  case regs => exact State.onlyRegs_setReg { s with hazard := false } 14#4 s.linkValue
  case psr => exact State.setReg_psr ..
  case hazard => exact State.setReg_hazard ..
  case system => simp [sameSystem, State.linked]
  case bytes => simp [sameBytes, State.byte, State.linked]
  case link32 => rw [State.reg_linked, State.linkValue_32 h32]
  case link26 =>
    obtain ⟨hn, hz, hc, hv, hi, hf⟩ := s.r15With_flags (s.pc + 4#32)
    rw [State.reg_linked, State.linkValue_26 h26]
    exact ⟨s.r15With_address _, hn, hz, hc, hv, hi, hf,
      (congrArg Mode.ofR15 (s.r15With_mode _)).trans (Mode.ofR15_bits h26)⟩
end

section
/-!
PROOF. Multiply and long multiply (43_multiply R210 to R223): the state that a product leaves, its registers and its
frame; what the two families refuse; and what each answers when it is ready.
-/

namespace Sys2Proof.Machine

section
variable {c : Cond} {sb : Bool} {rd rn rs rm rh rl : Reg} {named : List Reg} {s : State}

/-! ## The state that a product leaves -/

/-- The state after a multiply: the registers and the PSR written, and `n` free words drawn (43_multiply R213, R223). -/
def State.afterProduct (s : State) (x : Regs) (p : Psr) (n : Nat) : State :=
  { s with regs := x, psr := p, draws := s.draws + n, pc := s.successor, hazard := false }

/-- A multiply changes nothing but registers, PSR, `pc` and the free words. -/
theorem State.afterProduct_frame (s : State) (x : Regs) (p : Psr) (n : Nat) :
    let t := s.afterProduct x p n
    t.pc = s.successor ∧ t.hazard = false ∧ sameSystem s t ∧ sameBytes s t :=
  ⟨rfl, rfl, ⟨rfl, rfl, rfl, rfl⟩, fun _ => rfl, rfl⟩

/-- The flags have no part in which register a name is. -/
theorem State.reg_afterProduct {u : State} {r : Reg} {p : Psr} (n : Nat) (hr : r ≠ 15#4) (hu : u.psr = s.psr)
    (hp : p.mode = s.psr.mode) : (s.afterProduct u.regs p n).reg r = u.reg r :=
  State.reg_congr r hr (by rw [hu]; exact hp) fun _ _ => rfl

/-- The PSR after MUL and MLA (43_multiply R213). -/
def State.productPsr (s : State) (sb : Bool) (v : Word) : Psr :=
  if sb then { s.psr with n := v.msb, z := v == 0#32, c := s.freeBit 0 } else s.psr

theorem State.productPsr_mode (s : State) (sb : Bool) (v : Word) : (s.productPsr sb v).mode = s.psr.mode := by
  cases sb <;> rfl

/-- The state after MUL or MLA with the result `v` (43_multiply R210, R211). -/
def State.multiplied (s : State) (sb : Bool) (rd : Reg) (v : Word) : State :=
  s.afterProduct (s.setReg rd v).regs (s.productPsr sb v) sb.toNat

theorem State.setProduct_advance (s : State) (sb : Bool) (rd : Reg) (v : Word) :
    (({ s with hazard := false } : State).setProduct sb rd v).advance = s.multiplied sb rd v := by
  unfold State.setProduct State.multiplied State.setReg
  cases sb <;> cases s.psr.mode.preg rd <;> rfl

theorem State.reg_multiplied (s : State) (sb : Bool) (v : Word) (h : rd ≠ 15#4) :
    (s.multiplied sb rd v).reg rd = v :=
  (State.reg_afterProduct _ h (s.setReg_psr rd v) (s.productPsr_mode sb v)).trans (s.reg_setReg_same rd v h)

/-- What MUL and MLA leave beside the result, the flags read off the result itself. -/
theorem State.multiplied_effect (s : State) (sb : Bool) (v : Word) (h : rd ≠ 15#4) :
    let t := s.multiplied sb rd v
    onlyRegs s t [rd] ∧ t.psr = s.productPsr sb (t.reg rd) ∧
      t.pc = s.successor ∧ t.hazard = false ∧ sameSystem s t ∧ sameBytes s t :=
  ⟨s.onlyRegs_setReg rd v, by rw [s.reg_multiplied sb v h]; rfl, s.afterProduct_frame ..⟩

/-! ## The state that a long product leaves -/

/-- The state in which both halves of a long product are written (43_multiply R217). -/
def State.setHalves (s : State) (rh rl : Reg) (r : BitVec 64) : State :=
  (s.setReg rl (r.extractLsb' 0 32)).setReg rh (r.extractLsb' 32 32)

theorem State.setHalves_psr (s : State) (rh rl : Reg) (r : BitVec 64) : (s.setHalves rh rl r).psr = s.psr := by
  simp [State.setHalves]

theorem State.onlyRegs_setHalves (s : State) (rh rl : Reg) (r : BitVec 64) :
    onlyRegs s (s.setHalves rh rl r) [rh, rl] := fun p hp => by
  rw [State.setHalves, State.setReg_read, State.setReg_psr, if_neg (hp rh (by simp)), State.setReg_read,
    if_neg (hp rl (by simp))]

theorem State.reg_setHalves_high (s : State) (r : BitVec 64) (h : rh ≠ 15#4) :
    (s.setHalves rh rl r).reg rh = r.extractLsb' 32 32 :=
  State.reg_setReg_same _ rh _ h

theorem State.reg_setHalves_low (s : State) (r : BitVec 64) (h : rl ≠ 15#4) (hne : rh ≠ rl) :
    (s.setHalves rh rl r).reg rl = r.extractLsb' 0 32 := by
  rw [State.setHalves, State.reg_setReg_ne _ _ _ _ hne.symm h, State.reg_setReg_same _ _ _ h]

/-- The PSR after a long multiply (43_multiply R223). -/
def State.longProductPsr (s : State) (sb : Bool) (r : BitVec 64) : Psr :=
  if sb then { s.psr with n := r.msb, z := r == 0#64, c := s.freeBit 0, v := s.freeBit 1 } else s.psr

theorem State.longProductPsr_mode (s : State) (sb : Bool) (r : BitVec 64) :
    (s.longProductPsr sb r).mode = s.psr.mode := by
  cases sb <;> rfl

/-- The state after a long multiply with the result `r` (43_multiply R217). -/
def State.longMultiplied (s : State) (sb : Bool) (rh rl : Reg) (r : BitVec 64) : State :=
  s.afterProduct (s.setHalves rh rl r).regs (s.longProductPsr sb r) sb.toNat

theorem State.setLongProduct_advance (s : State) (sb : Bool) (rh rl : Reg) (r : BitVec 64) :
    (({ s with hazard := false } : State).setLongProduct sb rh rl r).advance = s.longMultiplied sb rh rl r := by
  unfold State.setLongProduct State.longMultiplied State.setHalves State.setReg
  cases sb <;> cases s.psr.mode.preg rl <;> cases s.psr.mode.preg rh <;> rfl

/-- Rh and Rl together hold the whole result. -/
theorem State.reg_append_longMultiplied (s : State) (sb : Bool) (r : BitVec 64) (hh : rh ≠ 15#4) (hl : rl ≠ 15#4)
    (hne : rh ≠ rl) : (s.longMultiplied sb rh rl r).reg rh ++ (s.longMultiplied sb rh rl r).reg rl = r := by
  have hpsr := s.setHalves_psr rh rl r
  have hmode := s.longProductPsr_mode sb r
  rw [State.longMultiplied, State.reg_afterProduct _ hh hpsr hmode, State.reg_afterProduct _ hl hpsr hmode,
    s.reg_setHalves_high r hh, s.reg_setHalves_low r hl hne]
  exact BitVec.extractLsb'_append_extractLsb'

/-- The long product as a number (43_multiply R217). -/
theorem State.longProduct_toNat (s : State) (signed accumulate : Bool) (rh rl rs rm : Reg) :
    ((s.longProduct signed accumulate rh rl rs rm).toNat : Int) =
      ((if signed then (s.reg rm).toInt * (s.reg rs).toInt else ((s.reg rm).toNat : Int) * ((s.reg rs).toNat : Int)) +
        (if accumulate then ((s.reg rh).toNat : Int) * 2 ^ 32 + ((s.reg rl).toNat : Int) else 0)) % 2 ^ 64 := by
  rw [State.longProduct, BitVec.toNat_ofInt, Int.toNat_of_nonneg (Int.emod_nonneg _ (by decide))]
  push_cast
  rfl

/-! ## What is refused -/

theorem multiplyRefusal_of_eq (h : rd = rm) : multiplyRefusal rd rm named = some .mulRdEqRm := if_pos h

theorem multiplyRefusal_of_fifteen (hne : rd ≠ rm) (h : 15#4 ∈ rd :: rm :: named) :
    multiplyRefusal rd rm named = some .mulWithR15 :=
  (if_neg hne).trans (if_pos h)

theorem multiplyRefusal_eq_none (hne : rd ≠ rm) (h : 15#4 ∉ rd :: rm :: named) :
    multiplyRefusal rd rm named = none :=
  (if_neg hne).trans (if_neg h)

theorem longMultiplyRefusal_of_fifteen (h : 15#4 ∈ [rh, rl, rs, rm]) :
    longMultiplyRefusal rh rl rs rm = some .longMulWithR15 :=
  if_pos h

theorem longMultiplyRefusal_of_not_distinct (h : 15#4 ∉ [rh, rl, rs, rm]) (hd : rh = rl ∨ rh = rm ∨ rl = rm) :
    longMultiplyRefusal rh rl rs rm = some .longMulNotDistinct :=
  (if_neg h).trans (if_pos hd)

theorem longMultiplyRefusal_eq_none (h : 15#4 ∉ [rh, rl, rs, rm]) (hd : ¬(rh = rl ∨ rh = rm ∨ rl = rm)) :
    longMultiplyRefusal rh rl rs rm = none :=
  (if_neg h).trans (if_neg hd)

/-! ## What the instructions answer when they are ready -/

/-- MUL reads no Rn (43_multiply R210). -/
theorem exec_mul_ready (hs : s.ready c [rd, rm, rs] = true) : exec (.mul c sb rd rn rs rm) s =
    refuseIf (multiplyRefusal rd rm [rs]) (.next (s.multiplied sb rd (s.reg rm * s.reg rs))) := by
  rw [← State.setProduct_advance]
  exact instruction_ready hs _

theorem exec_mla_ready (hs : s.ready c [rd, rm, rs, rn] = true) : exec (.mla c sb rd rn rs rm) s =
    refuseIf (multiplyRefusal rd rm [rs, rn]) (.next (s.multiplied sb rd (s.reg rm * s.reg rs + s.reg rn))) := by
  rw [← State.setProduct_advance]
  exact instruction_ready hs _

theorem longMultiply_ready (signed accumulate : Bool) (hs : s.ready c [rh, rl, rs, rm] = true) :
    longMultiply signed accumulate c sb rh rl rs rm s = refuseIf (longMultiplyRefusal rh rl rs rm)
      (.next (s.longMultiplied sb rh rl (s.longProduct signed accumulate rh rl rs rm))) := by
  rw [← State.setLongProduct_advance]
  exact instruction_ready hs _

/-- The operands that 43_multiply R212 admits. -/
theorem exec_mul_result (hs : s.ready c [rd, rm, rs] = true) (hne : rd ≠ rm) (h : 15#4 ∉ [rd, rm, rs]) :
    exec (.mul c sb rd rn rs rm) s = .next (s.multiplied sb rd (s.reg rm * s.reg rs)) := by
  rw [exec_mul_ready hs, multiplyRefusal_eq_none hne h, refuseIf]

theorem exec_mla_result (hs : s.ready c [rd, rm, rs, rn] = true) (hne : rd ≠ rm) (h : 15#4 ∉ [rd, rm, rs, rn]) :
    exec (.mla c sb rd rn rs rm) s = .next (s.multiplied sb rd (s.reg rm * s.reg rs + s.reg rn)) := by
  rw [exec_mla_ready hs, multiplyRefusal_eq_none hne h, refuseIf]

/-- The operands that 43_multiply R222 admits. -/
theorem longMultiply_result (signed accumulate : Bool) (hs : s.ready c [rh, rl, rs, rm] = true)
    (h : 15#4 ∉ [rh, rl, rs, rm]) (hd : ¬(rh = rl ∨ rh = rm ∨ rl = rm)) :
    longMultiply signed accumulate c sb rh rl rs rm s =
      .next (s.longMultiplied sb rh rl (s.longProduct signed accumulate rh rl rs rm)) := by
  rw [longMultiply_ready _ _ hs, longMultiplyRefusal_eq_none h hd, refuseIf]

/-- The four long multiplies are one operation with the bits U and A (43_multiply R218 to R221). -/
theorem exec_eq_longMultiply {i : Instr}
    (h : i ∈ [.umull c sb rh rl rs rm, .umlal c sb rh rl rs rm, .smull c sb rh rl rs rm, .smlal c sb rh rl rs rm]) :
    ∃ signed accumulate, exec i s = longMultiply signed accumulate c sb rh rl rs rm s := by
  simp only [List.mem_cons, List.not_mem_nil, or_false] at h
  obtain rfl | rfl | rfl | rfl := h
  · exact ⟨false, false, rfl⟩
  · exact ⟨false, true, rfl⟩
  · exact ⟨true, false, rfl⟩
  · exact ⟨true, true, rfl⟩

end

end Sys2Proof.Machine

open Sys2Proof.Machine in
/-- Settles O37: the product of words is the product of numbers modulo 2^32, and the state is written out. -/
theorem multiplyResult : Obligations.MultiplyResult := by
  intro c sb rd rn rs rm s hne hrd hrs hrm
  have hmul : 15#4 ∉ [rd, rm, rs] := by simp [hrd.symm, hrm.symm, hrs.symm]
  refine ⟨fun hs => ⟨_, exec_mul_result hs hne hmul, ?product, s.multiplied_effect sb _ hrd⟩, fun hrn hs => ?mla⟩
  case product => rw [s.reg_multiplied sb _ hrd, BitVec.toNat_mul]
  case mla =>
    have hmla : 15#4 ∉ [rd, rm, rs, rn] := by simp [hrd.symm, hrm.symm, hrs.symm, hrn.symm]
    refine ⟨_, exec_mla_result hs hne hmla, ?sum, s.multiplied_effect sb _ hrd⟩
    rw [s.reg_multiplied sb _ hrd, BitVec.toNat_add, BitVec.toNat_mul, Nat.mod_add_mod]

open Sys2Proof.Machine in
/-- Settles O38: Rh and Rl are the halves of the long product, which is the exact number modulo 2^64. -/
theorem longMultiplyResult : Obligations.LongMultiplyResult := by
  intro signed accumulate c sb rh rl rs rm s h15 hhl hhm hlm hs
  have hh : rh ≠ 15#4 := fun h => h15 (by simp [h])
  have hl : rl ≠ 15#4 := fun h => h15 (by simp [h])
  have hr := s.reg_append_longMultiplied sb (s.longProduct signed accumulate rh rl rs rm) hh hl hhl
  have hready := longMultiply_result (sb := sb) signed accumulate hs h15 (by simp [hhl, hhm, hlm])
  refine ⟨_, Eq.trans ?exec hready, ?value, s.onlyRegs_setHalves rh rl _, ?psr, s.afterProduct_frame ..⟩
  case exec => cases signed <;> cases accumulate <;> rfl
  case value => rw [hr, s.longProduct_toNat]
  case psr => rw [hr]; rfl

open Sys2Proof.Machine in
/-- Settles O39: the restrictions are looked at in this order, before anything is computed. -/
theorem multiplyRestrictions : Obligations.MultiplyRestrictions := by
  refine ⟨fun c sb rd rn rs rm s => ⟨fun hs h => ?mulSame, fun hs hne h => ?mulFifteen, fun hs h => ?mlaSame,
    fun hs hne h => ?mlaFifteen⟩, fun i c sb rh rl rs rm s hs hi => ?long⟩
  case mulSame => rw [exec_mul_ready hs, multiplyRefusal_of_eq h, refuseIf]
  case mulFifteen => rw [exec_mul_ready hs, multiplyRefusal_of_fifteen hne h, refuseIf]
  case mlaSame => rw [exec_mla_ready hs, multiplyRefusal_of_eq h, refuseIf]
  case mlaFifteen => rw [exec_mla_ready hs, multiplyRefusal_of_fifteen hne h, refuseIf]
  case long =>
    obtain ⟨signed, accumulate, he⟩ := exec_eq_longMultiply (s := s) hi
    rw [he, longMultiply_ready _ _ hs]
    exact ⟨fun h => by rw [longMultiplyRefusal_of_fifteen h, refuseIf],
      fun h hd => by rw [longMultiplyRefusal_of_not_distinct h hd, refuseIf]⟩
end

section
/-!
PROOF. Single data transfer (44_single_data_transfer R230 to R249): the operands that are admitted, the state that a
transfer leaves with its registers and its memory, and what each form answers when it is ready.
-/

namespace Sys2Proof.Machine

section
variable {l : Bool} {z : Size} {c : Cond} {p u w : Bool} {rn rd : Reg} {o : Offset} {s : State}

/-! ## The operands -/

/-- What 44_single_data_transfer R231 and R245 to R247 admit. -/
theorem transferRefusal_eq_none_iff : transferRefusal l z p w rn rd o = none ↔
    15#4 ∉ o.regs ∧ (writesBack p w = true → rn ≠ 15#4 ∧ rd ≠ rn) ∧ (p = false → rn ∉ o.regs) ∧
      (rd = 15#4 → l = true ∧ z = .word) := by
  constructor
  · intro h
    unfold transferRefusal at h
    split_ifs at h with hoffset hbase hsame hpost hstore hbyte
    refine ⟨hoffset, fun hw => ⟨fun h => hbase ⟨h, hw⟩, fun h => hsame ⟨h, hw⟩⟩, fun hp h => hpost ⟨h, hp⟩,
      fun h => ⟨Bool.eq_true_of_not_eq_false fun hl => hstore ⟨h, hl⟩, ?_⟩⟩
    cases z with
    | byte => exact absurd ⟨h, rfl⟩ hbyte
    | word => rfl
  · rintro ⟨hoffset, hbase, hpost, hrd⟩
    rw [transferRefusal, if_neg hoffset, if_neg fun ⟨h, hw⟩ => (hbase hw).1 h, if_neg fun ⟨h, hw⟩ => (hbase hw).2 h,
      if_neg fun ⟨h, hp⟩ => hpost hp h, if_neg fun ⟨h, hl⟩ => Bool.false_ne_true (hl.symm.trans (hrd h).1),
      if_neg fun ⟨h, hz⟩ => by simp [(hrd h).2] at hz]

theorem transferRefusal_mem {r : Refusal} (h : transferRefusal l z p w rn rd o = some r) :
    r ∈ [Refusal.pcAsOffset, .r15BaseWriteBack, .rdEqRnWriteBack, .rmEqRnPostIndexed, .storeOfR15,
      .byteLoadToR15] := by
  unfold transferRefusal at h
  split_ifs at h <;> cases h <;> decide

@[simp] theorem State.transferAddr_with_hazard (s : State) (b p u : Bool) (rn : Reg) (o : Offset) :
    ({ s with hazard := b } : State).transferAddr p u rn o = s.transferAddr p u rn o :=
  rfl

/-! ## The registers that a transfer writes -/

theorem State.reg_writeBack_same (s : State) (idx : Word) (hw : writesBack p w = true) (hrn : rn ≠ 15#4) :
    (s.writeBack p w rn idx).reg rn = idx := by
  rw [State.writeBack, if_pos hw, s.reg_setReg_same rn idx hrn]

theorem State.onlyRegs_writeBack (s : State) (p w : Bool) (rn : Reg) (idx : Word) :
    onlyRegs s (s.writeBack p w rn idx) (if writesBack p w then [rn] else []) := by
  unfold State.writeBack
  split
  · exact s.onlyRegs_setReg rn idx
  · exact fun _ _ => rfl

/-- A load of R15 writes no register of the file (44_single_data_transfer R247). -/
theorem State.finishLoad_regs (s : State) (rd : Reg) (v : Word) : (s.finishLoad rd v).regs = (s.setReg rd v).regs := by
  unfold State.finishLoad
  split
  · next h => rw [h]; rfl
  · rfl

@[simp] theorem State.finishLoad_psr (s : State) (rd : Reg) (v : Word) : (s.finishLoad rd v).psr = s.psr := by
  unfold State.finishLoad; split <;> simp

/-- What a load writes beside the registers of the file is `pc`. -/
theorem State.finishLoad_frame (s : State) (rd : Reg) (v : Word) :
    (s.finishLoad rd v).hazard = s.hazard ∧ sameSystem s (s.finishLoad rd v) ∧ sameBytes s (s.finishLoad rd v) := by
  unfold State.finishLoad
  split <;> simp [sameSystem, sameBytes, State.byte]

theorem State.reg_finishLoad (s : State) (rd : Reg) (v : Word) {r : Reg} (hr : r ≠ 15#4) :
    (s.finishLoad rd v).reg r = (s.setReg rd v).reg r :=
  State.reg_congr r hr (by simp) fun _ _ => by rw [s.finishLoad_regs]

/-- R15 is none of the physical registers. -/
theorem onlyRegs_of_cons_fifteen {t : State} {ds : List Reg} (h : onlyRegs s t (15#4 :: ds)) : onlyRegs s t ds :=
  fun q hq => h q (List.forall_mem_cons.2 ⟨by simp, hq⟩)

/-! ## The state after a load -/

/-- The state after a load of `v`, the base moved to `idx` (44_single_data_transfer R233, R247). -/
def State.loaded (s : State) (p w : Bool) (rn rd : Reg) (idx v : Word) : State :=
  (({ s with hazard := false } : State).writeBack p w rn idx).finishLoad rd v

theorem State.reg_loaded_same (s : State) (p w : Bool) (rn : Reg) (idx v : Word) (hrd : rd ≠ 15#4) :
    (s.loaded p w rn rd idx v).reg rd = v := by
  rw [State.loaded, State.reg_finishLoad _ _ _ hrd, State.reg_setReg_same _ _ _ hrd]

theorem State.reg_loaded_base (s : State) (idx v : Word) (hw : writesBack p w = true) (hrn : rn ≠ 15#4)
    (hne : rd ≠ rn) : (s.loaded p w rn rd idx v).reg rn = idx := by
  rw [State.loaded, State.reg_finishLoad _ _ _ hrn, State.reg_setReg_ne _ _ _ _ hne.symm hrn,
    State.reg_writeBack_same _ _ hw hrn]

theorem State.onlyRegs_loaded (s : State) (p w : Bool) (rn rd : Reg) (idx v : Word) :
    onlyRegs s (s.loaded p w rn rd idx v) (rd :: if writesBack p w then [rn] else []) := by
  intro q hq
  obtain ⟨hqd, hqn⟩ := List.forall_mem_cons.1 hq
  let s₀ : State := { s with hazard := false }
  calc ((s₀.writeBack p w rn idx).finishLoad rd v).regs.read q
      = ((s₀.writeBack p w rn idx).setReg rd v).regs.read q := by rw [State.finishLoad_regs]
    _ = (s₀.writeBack p w rn idx).regs.read q := by rw [State.setReg_read, State.writeBack_psr, if_neg hqd]
    _ = s.regs.read q := s₀.onlyRegs_writeBack p w rn idx q hqn

theorem State.pc_loaded (s : State) (p w : Bool) (rn : Reg) (idx v : Word) (hrd : rd ≠ 15#4) :
    (s.loaded p w rn rd idx v).pc = s.successor := by
  rw [State.loaded, State.finishLoad, if_neg hrd, State.advance_pc]
  exact State.successor_congr (by simp) (by simp)

theorem State.pc_loaded_fifteen (s : State) (p w : Bool) (rn : Reg) (idx v : Word) :
    (s.loaded p w rn 15#4 idx v).pc = v &&& (if s.mode26 then 0x03FFFFFC#32 else 0xFFFFFFFC#32) := by
  rw [State.loaded, State.finishLoad, if_pos rfl, State.writePc_pc, State.pcTarget, State.mode26, State.writeBack_psr]
  exact (apply_ite (v &&& ·) _ _ _).symm

/-- A load changes nothing but registers and `pc`. -/
theorem State.loaded_frame (s : State) (p w : Bool) (rn rd : Reg) (idx v : Word) :
    let t := s.loaded p w rn rd idx v
    t.psr = s.psr ∧ t.hazard = false ∧ sameSystem s t ∧ sameBytes s t := by
  simpa [State.loaded, sameSystem, sameBytes, State.byte] using
    State.finishLoad_frame (({ s with hazard := false } : State).writeBack p w rn idx) rd v

/-! ## The state after a store -/

/-- The state after a store of Rd at `a`, the base moved to `idx` (44_single_data_transfer R233). -/
def State.storedAt (s : State) (z : Size) (p w : Bool) (rn rd : Reg) (idx a : Word) : State :=
  ((({ s with hazard := false } : State).put z a (s.reg rd)).writeBack p w rn idx).advance

theorem State.reg_storedAt_base (s : State) (z : Size) (rd : Reg) (idx a : Word) (hw : writesBack p w = true)
    (hrn : rn ≠ 15#4) : (s.storedAt z p w rn rd idx a).reg rn = idx := by
  rw [State.storedAt, State.reg_advance _ _ hrn, State.reg_writeBack_same _ _ hw hrn]

theorem State.onlyRegs_storedAt (s : State) (z : Size) (p w : Bool) (rn rd : Reg) (idx a : Word) :
    onlyRegs s (s.storedAt z p w rn rd idx a) (if writesBack p w then [rn] else []) :=
  State.onlyRegs_writeBack (({ s with hazard := false } : State).put z a (s.reg rd)) p w rn idx

/-- Memory after a store is that of the store itself. -/
theorem State.byte_storedAt (s : State) (z : Size) (p w : Bool) (rn rd : Reg) (idx a : Word) (b : Nat) :
    (s.storedAt z p w rn rd idx a).byte b = (s.put z a (s.reg rd)).byte b := by
  simp [State.storedAt, State.byte]

theorem State.stored_storedAt (s : State) (z : Size) (p w : Bool) (rn rd : Reg) (idx a : Word) (b : Nat) :
    b ∈ (s.storedAt z p w rn rd idx a).stored ↔ b ∈ s.stored ∨ b = a.toNat - a.toNat % 4 := by
  simp [State.storedAt, insertAddr_mem, or_comm]

/-- Beside registers and memory a store changes `pc` alone. -/
theorem State.storedAt_frame (s : State) (z : Size) (p w : Bool) (rn rd : Reg) (idx a : Word) :
    let t := s.storedAt z p w rn rd idx a
    t.psr = s.psr ∧ t.pc = s.successor ∧ t.hazard = false ∧ sameSystem s t :=
  ⟨by simp [State.storedAt], State.successor_congr (by simp) (by simp), by simp [State.storedAt],
    by simp [State.storedAt, sameSystem]⟩

theorem State.byte_put_byte (s : State) (a v : Word) (hm : Memory.wf s.mem = true) :
    (s.put .byte a v).byte a.toNat = v.extractLsb' 0 8 :=
  (Memory.read_write s.mem a.toNat a.toNat _ hm).trans (if_pos rfl)

/-! ## The access that is stopped -/

theorem State.load_of_stopped {user : Bool} {a : Word} {e : Stop}
    (h : s.access z .read (s.privileged && !user) a = some e) : s.load z user a = .error e := by
  rw [State.load, h]

theorem State.store_of_stopped {user : Bool} {a v : Word} {e : Stop}
    (h : s.access z .write (s.privileged && !user) a = some e) : s.store z user a v = .error e := by
  rw [State.store, h]

/-! ## What the instructions answer when they are ready -/

/-- The restrictions are looked at first (44_single_data_transfer R233). -/
theorem exec_transferInstr_refused {r : Refusal} (hs : s.ready c (rn :: rd :: o.regs) = true)
    (hr : transferRefusal l z p w rn rd o = some r) :
    exec (transferInstr l z c p u w rn rd o) s = .refused r := by
  rw [exec_transferInstr, singleTransfer, instruction_ready hs, hr, refuseIf]

/-- Then the alignment (20_memory R73). -/
theorem exec_transferInstr_unaligned (hs : s.ready c (rn :: rd :: o.regs) = true)
    (hr : transferRefusal l z p w rn rd o = none) (hf : z.fits (s.transferAddr p u rn o) = false) :
    exec (transferInstr l z c p u w rn rd o) s = .refused .unalignedAccess := by
  rw [exec_transferInstr, singleTransfer, instruction_ready hs, hr, refuseIf]
  exact if_pos (by simp [hf])

/-- Then the load or the store. -/
theorem exec_transferInstr_admitted (hs : s.ready c (rn :: rd :: o.regs) = true)
    (hr : transferRefusal l z p w rn rd o = none) (hf : z.fits (s.transferAddr p u rn o) = true) :
    exec (transferInstr l z c p u w rn rd o) s =
      (let t : State := { s with hazard := false }
       let idx := s.transferIndex u rn o
       let addr := s.transferAddr p u rn o
       if l then
         andThen t (t.load z (asUserMode p w) addr) fun v => .next ((t.writeBack p w rn idx).finishLoad rd v)
       else
         andThen t (t.store z (asUserMode p w) addr (s.reg rd)) fun t => .next (t.writeBack p w rn idx).advance) := by
  rw [exec_transferInstr, singleTransfer, instruction_ready hs, hr, refuseIf]
  exact if_neg (by simp [hf])

theorem exec_transferInstr_load (hs : s.ready c (rn :: rd :: o.regs) = true)
    (hr : transferRefusal true z p w rn rd o = none) (hf : z.fits (s.transferAddr p u rn o) = true)
    (ha : s.access z .read (s.privileged && !asUserMode p w) (s.transferAddr p u rn o) = none) :
    exec (transferInstr true z c p u w rn rd o) s =
      .next (s.loaded p w rn rd (s.transferIndex u rn o) (s.value z (s.transferAddr p u rn o))) := by
  rw [exec_transferInstr_admitted hs hr hf]
  dsimp only
  rw [if_pos rfl, State.load_of_access (s := { s with hazard := false }) ha]
  rfl

theorem exec_transferInstr_store (hs : s.ready c (rn :: rd :: o.regs) = true)
    (hr : transferRefusal false z p w rn rd o = none) (hf : z.fits (s.transferAddr p u rn o) = true)
    (ha : s.access z .write (s.privileged && !asUserMode p w) (s.transferAddr p u rn o) = none) :
    exec (transferInstr false z c p u w rn rd o) s =
      .next (s.storedAt z p w rn rd (s.transferIndex u rn o) (s.transferAddr p u rn o)) := by
  rw [exec_transferInstr_admitted hs hr hf]
  dsimp only
  rw [if_neg Bool.false_ne_true, State.store_of_access (s := { s with hazard := false }) ha]
  rfl

/-- An access that is stopped leaves the state as it was (44_single_data_transfer R248). -/
theorem exec_transferInstr_stopped {e : Stop} (hs : s.ready c (rn :: rd :: o.regs) = true)
    (hr : transferRefusal l z p w rn rd o = none) (hf : z.fits (s.transferAddr p u rn o) = true)
    (ha : s.access z (if l then .read else .write) (s.privileged && !asUserMode p w) (s.transferAddr p u rn o) =
      some e) :
    exec (transferInstr l z c p u w rn rd o) s = stopWith { s with hazard := false } e := by
  rw [exec_transferInstr_admitted hs hr hf]
  dsimp only
  cases l with
  | true => rw [if_pos rfl, State.load_of_stopped (s := { s with hazard := false }) ha, andThen]
  | false => rw [if_neg Bool.false_ne_true, State.store_of_stopped (s := { s with hazard := false }) ha, andThen]

end

end Sys2Proof.Machine

open Sys2Proof.Machine in
/-- Settles O40: an access that goes through leaves the state of a load, whose registers are Rd and the base. -/
theorem loadResult : Obligations.LoadResult := by
  intro z c p u w rn rd o s hs hrd ho hbase hoff idx addr hfit ha
  have hr : transferRefusal true z p w rn rd o = none :=
    transferRefusal_eq_none_iff.2 ⟨ho, hbase, hoff, fun h => absurd h hrd⟩
  obtain ⟨hpsr, hhazard, hsystem, hbytes⟩ := s.loaded_frame p w rn rd idx (s.value z addr)
  refine ⟨_, exec_transferInstr_load hs hr hfit ha, ?value, fun hw => ?base, s.onlyRegs_loaded p w rn rd idx _, hpsr,
    s.pc_loaded p w rn idx _ hrd, hhazard, hsystem, hbytes⟩
  case value =>
    rw [s.reg_loaded_same p w rn _ _ hrd]
    cases z <;> rfl
  case base =>
    obtain ⟨hrn, hne⟩ := hbase hw
    exact s.reg_loaded_base idx _ hw hrn hne

open Sys2Proof.Machine in
/-- Settles O41: an access that goes through leaves the state of a store, whose memory is that of one `put`. -/
theorem storeResult : Obligations.StoreResult := by
  intro z c p u w rn rd o s hs hm hrd ho hbase hoff idx addr hfit ha
  have hr : transferRefusal false z p w rn rd o = none :=
    transferRefusal_eq_none_iff.2 ⟨ho, hbase, hoff, fun h => absurd h hrd⟩
  have hbyte := s.byte_storedAt z p w rn rd idx addr
  refine ⟨_, exec_transferInstr_store hs hr hfit ha, ?value,
    fun b hb => (hbyte b).trans (s.byte_put z addr (s.reg rd) b hm hb), s.stored_storedAt z p w rn rd idx addr,
    fun hw => s.reg_storedAt_base z rd idx addr hw (hbase hw).1, s.onlyRegs_storedAt z p w rn rd idx addr,
    s.storedAt_frame z p w rn rd idx addr⟩
  cases z with
  | byte => exact (hbyte addr.toNat).trans (s.byte_put_byte addr (s.reg rd) hm)
  | word => exact (State.wordAt_congr addr fun b _ _ => hbyte b).trans (s.wordAt_put addr (s.reg rd) hm)

open Sys2Proof.Machine in
/-- Settles O42: R15 is no register that a load writes, and `pc` is the target of a jump. -/
theorem loadIntoR15 : Obligations.LoadIntoR15 := by
  intro c p u w rn o s hs ho hbase hoff idx addr hfit ha
  have hs' : s.ready c (rn :: 15#4 :: o.regs) = true := hs
  have hbase' : writesBack p w = true → rn ≠ 15#4 ∧ 15#4 ≠ rn := fun hw => ⟨hbase hw, (hbase hw).symm⟩
  have hr : transferRefusal true .word p w rn 15#4 o = none :=
    transferRefusal_eq_none_iff.2 ⟨ho, hbase', hoff, fun _ => ⟨rfl, rfl⟩⟩
  obtain ⟨hpsr, hhazard, hsystem, hbytes⟩ := s.loaded_frame p w rn 15#4 idx (s.value .word addr)
  refine ⟨_, exec_transferInstr_load hs' hr hfit ha, s.pc_loaded_fifteen p w rn idx _, fun hw => ?base,
    onlyRegs_of_cons_fifteen (s.onlyRegs_loaded p w rn 15#4 idx _), hpsr, hhazard, hsystem, hbytes⟩
  obtain ⟨hrn, hne⟩ := hbase' hw
  exact s.reg_loaded_base idx _ hw hrn hne

open Sys2Proof.Machine in
/-- Settles O44: what stops the access is one of three, and the instruction ends with it in the state before. -/
theorem transferAborts : Obligations.TransferAborts := by
  intro l z c p u w rn rd o s hs ho hbase hoff hrd idx addr hfit i privileged kind
  have hr : transferRefusal l z p w rn rd o = none := transferRefusal_eq_none_iff.2 ⟨ho, hbase, hoff, hrd⟩
  have hkind : kind ≠ .fetch := by cases l <;> simp [kind]
  have stopped : ∀ e, s.stopsAccess z kind privileged addr e → exec i s = stopWith { s with hazard := false } e :=
    fun e he => exec_transferInstr_stopped hs hr hfit ((State.access_eq_some hkind).2 he)
  refine ⟨fun hout => stopped _ (.inl ⟨rfl, hout⟩), fun hin habort => ?abort, fun hin habort hhole => ?hole⟩
  case abort => exact stopped (.exc .dataAbort) (.inr (.inl ⟨rfl, hin.not_ge, habort⟩))
  case hole => exact stopped (.fault .unbackedAddress) (.inr (.inr ⟨rfl, hin.not_ge, by simp [habort], hhole⟩))

open Sys2Proof.Machine in
/-- Settles O43: operands that are admitted leave the alignment as the one ground. -/
theorem transferRestrictions : Obligations.TransferRestrictions := by
  intro l z c p u w rn rd o s hs idx addr hground
  cases hr : transferRefusal l z p w rn rd o with
  | some r =>
    have hmem := List.mem_append_left [Refusal.unalignedAccess] (transferRefusal_mem hr)
    exact ⟨r, exec_transferInstr_refused hs hr, hmem⟩
  | none =>
    obtain ⟨ho, hbase, hoff, hrd⟩ := transferRefusal_eq_none_iff.1 hr
    have hfit : z.fits addr = false := by
      rcases hground with h | ⟨h, hw⟩ | ⟨h, hw⟩ | ⟨h, hp⟩ | ⟨h, hlz⟩ | ⟨rfl, h⟩
      · exact absurd h ho
      · exact absurd h (hbase hw).1
      · exact absurd h (hbase hw).2
      · exact absurd h (hoff hp)
      · obtain ⟨rfl, rfl⟩ := hrd h
        simp at hlz
      · exact h
    exact ⟨_, exec_transferInstr_unaligned hs hr hfit, by simp⟩
end

section
/-!
PROOF. Block data transfer (45_block_data_transfer R260 to R280): the transfers that are admitted, the state that the
loaded words leave in the registers and the stored ones in memory, and what each form answers when it is ready.
-/

namespace Sys2Proof.Machine

section
variable {l p u : Bool} {c : Cond} {sb w : Bool} {rn : Reg} {list : BitVec 16} {s : State}

/-! ## The transfers that are admitted -/

/-- The transfers that 45_block_data_transfer R275 to R278 let through. -/
theorem State.blockRefusal_eq_none_iff : s.blockRefusal l sb w rn list = none ↔
    rn ≠ 15#4 ∧ list ≠ 0#16 ∧ ¬(userBank l sb list = true ∧ w = true ∧ s.privileged = true) ∧
      ¬(w = true ∧ list.getLsbD rn.toNat = true) ∧ ¬(l = false ∧ hasR15 list = true) := by
  constructor
  · intro h
    unfold State.blockRefusal at h
    split_ifs at h with hbase hempty huser hback hstore
    exact ⟨hbase, hempty, huser, hback, hstore⟩
  · rintro ⟨hbase, hempty, huser, hback, hstore⟩
    rw [State.blockRefusal, if_neg hbase, if_neg hempty, if_neg huser, if_neg hback, if_neg hstore]

theorem State.blockRefusal_mem {r : Refusal} (h : s.blockRefusal l sb w rn list = some r) :
    r ∈ [Refusal.pcAsBase, .emptyList, .userBankWriteBack, .baseInListWriteBack, .storeOfR15] := by
  unfold State.blockRefusal at h
  split_ifs at h <;> cases h <;> decide

@[simp] theorem State.blockRefusal_with_hazard (b : Bool) :
    ({ s with hazard := b } : State).blockRefusal l sb w rn list = s.blockRefusal l sb w rn list :=
  rfl

@[simp] theorem userBank_store : userBank false sb list = sb := by simp [userBank]

theorem userBank_load (h : hasR15 list = false) : userBank true sb list = sb := by simp [userBank, h]

theorem userBank_iff : userBank l true list = true ↔ l = false ∨ hasR15 list = false := by simp [userBank]

/-- A load of R15 is of the bank of the mode (45_block_data_transfer R274). -/
theorem userBank_load_r15 (h : hasR15 list = true) : userBank true sb list = false := by simp [userBank, h]

/-- The list without R15 names registers of the file. -/
theorem ne_fifteen_of_mem_list (h15 : hasR15 list = false) {r : Reg} (hr : list.getLsbD r.toNat = true) :
    r ≠ 15#4 := by
  rintro rfl
  exact Bool.false_ne_true (h15.symm.trans hr)

theorem list_ne_zero_of_r15 (h15 : hasR15 list = true) : list ≠ 0#16 := by
  rintro rfl
  exact Bool.false_ne_true h15

/-- A block transfer that runs: nothing refuses it, and its words are aligned (45_block_data_transfer R264). -/
structure State.BlockAdmitted (s : State) (l : Bool) (c : Cond) (sb w : Bool) (rn : Reg) (list : BitVec 16) : Prop where
  ready : s.ready c (rn :: listRegs list) = true
  allowed : s.blockRefusal l sb w rn list = none
  aligned : Word.aligned (s.reg rn) = true

/-- A base outside the list may be written back, but not in a user bank transfer. -/
theorem State.BlockAdmitted.of_base (hs : s.ready c (rn :: listRegs list) = true) (hrn : rn ≠ 15#4)
    (hlist : list ≠ 0#16) (hstore : l = false → list.getLsbD 15 = false)
    (hback : w = true → list.getLsbD rn.toNat = false) (ha : Word.aligned (s.reg rn) = true)
    (huser : w = true → s.privileged = true → userBank l sb list = false) : s.BlockAdmitted l c sb w rn list :=
  ⟨hs, State.blockRefusal_eq_none_iff.2 ⟨hrn, hlist,
    fun ⟨h, hw, hp⟩ => Bool.false_ne_true ((huser hw hp).symm.trans h),
    fun ⟨hw, h⟩ => Bool.false_ne_true ((hback hw).symm.trans h),
    fun ⟨hl, h⟩ => Bool.false_ne_true ((hstore hl).symm.trans h)⟩, ha⟩

/-! ## The range of the addresses -/

/-- Every word of the transfer can be accessed (20_memory R74). -/
abbrev State.BlockAccess (s : State) (k : AccessKind) (privileged p u : Bool) (rn : Reg) (list : BitVec 16) : Prop :=
  ∀ r : Reg, list.getLsbD r.toNat = true →
    s.access .word k privileged (blockWordAddr p u (s.reg rn) list r) = none

theorem State.outOfRange_blockAddrs_iff : s.outOfRange (s.blockAddrs p u rn list) = true ↔
    ∃ r : Reg, list.getLsbD r.toNat = true ∧
      2 ^ s.cfg.variant.addrBits ≤ (blockWordAddr p u (s.reg rn) list r).toNat := by
  simp [State.outOfRange, State.blockAddrs_eq, mem_listRegs]

theorem State.inRange_of_lt (h : ∀ r : Reg, list.getLsbD r.toNat = true →
    (blockWordAddr p u (s.reg rn) list r).toNat < 2 ^ s.cfg.variant.addrBits) :
    s.outOfRange (s.blockAddrs p u rn list) = false :=
  Bool.eq_false_iff.2 fun hout =>
    have ⟨r, hr, hle⟩ := State.outOfRange_blockAddrs_iff.1 hout
    (h r hr).not_ge hle

/-- Words that can be accessed are in range (20_memory R82). -/
theorem State.inRange_of_access {k : AccessKind} {privileged : Bool} (hk : k ≠ .fetch)
    (h : s.BlockAccess k privileged p u rn list) : s.outOfRange (s.blockAddrs p u rn list) = false :=
  State.inRange_of_lt fun r hr => State.access_none_range hk (h r hr)

/-! ## The registers after a load -/

theorem State.blockBack_read (s : State) (w : Bool) (rn : Reg) (v : Word) (x : PReg) :
    (s.blockBack w rn v).regs.read x =
      if w = true ∧ s.psr.mode.preg rn = some x then v else s.regs.read x := by
  cases w with
  | false => simp [State.blockBack]
  | true => simp [State.blockBack, State.setReg_read]

/-- The word that a block load reads for a register (45_block_data_transfer R262). -/
abbrev State.blockWord (s : State) (p u : Bool) (rn : Reg) (list : BitVec 16) (r : Reg) : Word :=
  s.wordAt (blockWordAddr p u (s.reg rn) list r)

/-- The state after the loads of a block load: the base moved to `final`, and each register of the list with its word
`g` (45_block_data_transfer R265). -/
def State.blockLoaded (s : State) (user w : Bool) (rn : Reg) (final : Word) (list : BitVec 16) (g : Reg → Word) :
    State :=
  (({ s with hazard := false } : State).blockBack w rn final).blockLoadRegs user
    ((listRegs list).map fun r => (r, g r))

section
variable {user : Bool} {final : Word} {g : Reg → Word} {x : PReg}

theorem State.read_blockLoaded_listed {r : Reg} (hr : list.getLsbD r.toNat = true)
    (hx : (if user then Mode.usr32 else s.psr.mode).preg r = some x) :
    (s.blockLoaded user w rn final list g).regs.read x = g r :=
  (State.blockLoadRegs_read _ user _ g (listRegs_nodup list) x).1 r ((mem_listRegs list r).2 hr) (by simpa using hx)

theorem State.read_blockLoaded_unlisted
    (h : ∀ r : Reg, list.getLsbD r.toNat = true → (if user then Mode.usr32 else s.psr.mode).preg r ≠ some x) :
    (s.blockLoaded user w rn final list g).regs.read x =
      if w = true ∧ s.psr.mode.preg rn = some x then final else s.regs.read x :=
  ((State.blockLoadRegs_read _ user _ g (listRegs_nodup list) x).2 fun r hr => by
    simpa using h r ((mem_listRegs list r).1 hr)).trans (State.blockBack_read _ w rn final x)

/-- A base that is written back is none of the registers loaded (45_block_data_transfer R276). -/
theorem State.read_blockLoaded_base (hw : w = true) (hrn : list.getLsbD rn.toNat = false)
    (hx : s.psr.mode.preg rn = some x) : (s.blockLoaded false w rn final list g).regs.read x = final := by
  rw [State.read_blockLoaded_unlisted, if_pos ⟨hw, hx⟩]
  rintro r hr hrx
  obtain rfl := (s.psr.mode.preg_injective r rn).1 (hrx.trans hx.symm)
  exact Bool.false_ne_true (hrn.symm.trans hr)

theorem State.onlyRegs_blockLoaded :
    onlyRegs s (s.blockLoaded false w rn final list g) (listRegs list ++ if w then [rn] else []) := by
  intro x hx
  obtain ⟨hlist, hbase⟩ := List.forall_mem_append.1 hx
  rw [State.read_blockLoaded_unlisted (user := false) fun r hr => hlist r ((mem_listRegs list r).2 hr), if_neg]
  rintro ⟨rfl, hrn⟩
  exact hbase rn List.mem_cons_self hrn

/-- The loads change registers of the file alone. -/
theorem State.blockLoaded_frame (s : State) (user w : Bool) (rn : Reg) (final : Word) (list : BitVec 16)
    (g : Reg → Word) :
    let t := s.blockLoaded user w rn final list g
    t.psr = s.psr ∧ t.pc = s.pc ∧ t.hazard = false ∧ sameSystem s t ∧ sameBytes s t := by
  simp [State.blockLoaded, sameSystem, sameBytes, State.byte]

theorem State.reg_of_read {t : State} {r : Reg} {v : Word} (hr : r ≠ 15#4) (hpsr : t.psr = s.psr)
    (h : ∀ x, s.psr.mode.preg r = some x → t.regs.read x = v) : t.reg r = v := by
  obtain ⟨x, hx⟩ := s.psr.mode.exists_preg r hr
  rw [State.reg_eq t r x (by rw [hpsr, hx]), h x hx]

theorem State.userReg_of_read {t : State} {r : Reg} {v : Word} (hr : r ≠ 15#4)
    (h : ∀ x, Mode.usr32.preg r = some x → t.regs.read x = v) : t.userReg r = v := by
  obtain ⟨x, hx⟩ := Mode.usr32.exists_preg r hr
  simp [State.userReg, hx, h x hx]

end

/-! ## Memory after a store -/

/-- The state after the registers `l` are stored, each at its address (45_block_data_transfer R265). -/
def State.blockPut (s : State) (addr val : Reg → Word) (l : List Reg) : State :=
  l.foldl (fun t r => t.put .word (addr r) (val r)) s

section
variable {val : Reg → Word} {rs : List Reg}

/-- The words of different registers do not overlap, so each reads back. -/
theorem State.blockPut_read (hm : Memory.wf s.mem = true) {base : Word} (ha : Word.aligned base = true)
    (hrs : ∀ r ∈ rs, list.getLsbD r.toNat = true) (hd : rs.Nodup) :
    (∀ r ∈ rs, (s.blockPut (blockWordAddr p u base list) val rs).wordAt (blockWordAddr p u base list r) = val r) ∧
    (∀ b : Nat, (∀ r ∈ rs,
      b < (blockWordAddr p u base list r).toNat ∨ (blockWordAddr p u base list r).toNat + 4 ≤ b) →
      (s.blockPut (blockWordAddr p u base list) val rs).byte b = s.byte b) :=
  putAll_read rs _ val s hm (fun r _ => blockWordAddr_aligned p u base list r ha)
    (hd.imp_of_mem fun hq hr hne h => hne (blockWordAddr_injective p u base list _ _ (hrs _ hq) (hrs _ hr) h))

theorem State.blockPut_onlyMemory (s : State) (addr val : Reg → Word) (rs : List Reg) :
    onlyMemory s (s.blockPut addr val rs) :=
  putAll_onlyMemory rs addr val s

/-- The state after a block store (45_block_data_transfer R265). -/
def State.blockStored (s : State) (p u user w : Bool) (rn : Reg) (list : BitVec 16) : State :=
  ((({ s with hazard := false } : State).blockPut (blockWordAddr p u (s.reg rn) list) (s.blockValue user rn)
    (listRegs list)).blockBack w rn (blockAfter u (s.reg rn) (listRegs list).length)).finishBlock user

/-- Each register of the list stands at its word, and no other byte has changed. -/
theorem State.blockStored_memory (s : State) (p u user w : Bool) (rn : Reg) (list : BitVec 16)
    (hm : Memory.wf s.mem = true) (ha : Word.aligned (s.reg rn) = true) :
    let t := s.blockStored p u user w rn list
    (∀ r : Reg, list.getLsbD r.toNat = true →
      t.wordAt (blockWordAddr p u (s.reg rn) list r) = s.blockValue user rn r) ∧
    (∀ b : Nat, (∀ r : Reg, list.getLsbD r.toNat = true →
      b < (blockWordAddr p u (s.reg rn) list r).toNat ∨ (blockWordAddr p u (s.reg rn) list r).toNat + 4 ≤ b) →
      t.byte b = s.byte b) := by
  intro t
  obtain ⟨hword, hother⟩ := State.blockPut_read (s := { s with hazard := false }) (p := p) (u := u)
    (val := s.blockValue user rn) hm ha (fun r => (mem_listRegs list r).1) (listRegs_nodup list)
  have hbyte : ∀ b, t.byte b = (({ s with hazard := false } : State).blockPut (blockWordAddr p u (s.reg rn) list)
      (s.blockValue user rn) (listRegs list)).byte b := by
    simp [t, State.blockStored, State.byte]
  refine ⟨fun r hr => ?_, fun b hb => ?_⟩
  · rw [← hword r ((mem_listRegs list r).2 hr)]
    exact State.wordAt_congr _ fun b _ _ => hbyte b
  · exact (hbyte b).trans (hother b fun r hr => hb r ((mem_listRegs list r).1 hr))

theorem State.blockStored_read (s : State) (p u user w : Bool) (rn : Reg) (list : BitVec 16) (x : PReg) :
    (s.blockStored p u user w rn list).regs.read x =
      if w = true ∧ s.psr.mode.preg rn = some x then blockAfter u (s.reg rn) (listRegs list).length
      else s.regs.read x := by
  rw [State.blockStored, State.finishBlock_regs, State.blockBack_read, State.blockPut_onlyMemory]

theorem State.onlyRegs_blockStored (s : State) (p u user w : Bool) (rn : Reg) (list : BitVec 16) :
    onlyRegs s (s.blockStored p u user w rn list) (if w then [rn] else []) := by
  intro x hx
  rw [State.blockStored_read, if_neg]
  rintro ⟨rfl, hrn⟩
  exact hx rn List.mem_cons_self hrn

theorem State.blockValue_plain (s : State) (rn r : Reg) : s.blockValue false rn r = s.reg r :=
  ite_eq_right_iff.2 fun h => congrArg s.reg h.symm

theorem State.blockStored_frame (s : State) (p u user w : Bool) (rn : Reg) (list : BitVec 16) :
    let t := s.blockStored p u user w rn list
    t.psr = s.psr ∧ t.pc = s.successor ∧ t.hazard = (user && s.privileged) ∧ sameSystem s t := by
  have h := State.blockPut_onlyMemory { s with hazard := false } (blockWordAddr p u (s.reg rn) list)
    (s.blockValue user rn) (listRegs list)
  unfold onlyMemory at h
  rw [State.blockStored, h]
  refine ⟨by simp, State.successor_congr (by simp) (by simp), by simp [State.privileged], by simp [sameSystem]⟩

theorem State.blockStored_regs (s : State) (p u user : Bool) (rn : Reg) (list : BitVec 16) :
    (s.blockStored p u user false rn list).regs = s.regs := by
  rw [State.blockStored, State.finishBlock_regs, State.blockBack, if_neg Bool.false_ne_true,
    State.blockPut_onlyMemory]

end

/-! ## The write of R15 -/

theorem State.writeR15_jump (s : State) (user32 : Refusal) (v : Word) :
    s.writeR15 user32 false v = .ok { s with pc := s.pcTarget v } :=
  rfl

theorem State.pcTarget_eq (s : State) (v : Word) :
    s.pcTarget v = v &&& (if s.mode26 then 0x03FFFFFC#32 else 0xFFFFFFFC#32) :=
  (apply_ite (v &&& ·) _ _ _).symm

/-! ## User mode -/

/-- In user mode the user registers are those of the mode (10_state R25). -/
theorem State.preg_user (h : s.privileged = false) (r : Reg) : s.psr.mode.preg r = Mode.usr32.preg r := by
  rw [Mode.preg, Mode.preg, Mode.bank_of_not_privileged h]
  rfl

theorem State.setUserReg_user (h : s.privileged = false) (r : Reg) (v : Word) : s.setUserReg r v = s.setReg r v := by
  rw [State.setUserReg, State.setReg, State.preg_user h]

theorem State.userReg_user (h : s.privileged = false) (r : Reg) : s.userReg r = s.reg r := by
  rw [State.userReg, State.reg, State.preg_user h]

theorem State.blockValue_user (h : s.privileged = false) (rn : Reg) : s.blockValue true rn = s.blockValue false rn := by
  funext r
  simp [State.blockValue, State.userReg_user h]

theorem State.blockLoadRegs_user (h : s.privileged = false) (rvs : List (Reg × Word)) :
    s.blockLoadRegs true rvs = s.blockLoadRegs false rvs := by
  unfold State.blockLoadRegs
  induction rvs generalizing s with
  | nil => rfl
  | cons rv rvs ih =>
    have hreg : State.blockLoadReg true s rv = State.blockLoadReg false s rv := by
      simp [State.blockLoadReg, State.setUserReg_user h]
    rw [List.foldl_cons, List.foldl_cons, hreg]
    exact ih (by simpa [State.privileged] using h)

theorem State.finishBlock_user (h : s.privileged = false) : s.finishBlock true = s.finishBlock false := by
  simp [State.finishBlock, h]

theorem State.blockRefusal_user (h : s.privileged = false) :
    s.blockRefusal l true w rn list = s.blockRefusal l false w rn list := by
  simp [State.blockRefusal, h]

theorem State.privileged_blockBack (h : s.privileged = false) (w : Bool) (rn : Reg) (v : Word) :
    (s.blockBack w rn v).privileged = false := by
  rw [State.privileged, State.blockBack_psr, ← State.privileged, h]

theorem State.privileged_blockLoadRegs (h : s.privileged = false) (user : Bool) (rvs : List (Reg × Word)) :
    (s.blockLoadRegs user rvs).privileged = false := by
  rw [State.privileged, State.blockLoadRegs_psr, ← State.privileged, h]

theorem State.privileged_storeAll (h : s.privileged = false) (stores : List (Word × Word)) :
    (s.storeAll stores).1.privileged = false := by
  rw [s.storeAll_onlyMemory stores]
  exact h

/-! ## What the instructions answer when they are ready -/

/-- The restrictions are looked at first, then the alignment of the base, then the range of all addresses
(45_block_data_transfer R264, R265, R280). -/
theorem exec_blockInstr_checks (hs : s.ready c (rn :: listRegs list) = true) : ∃ rest : Answer,
    exec (blockInstr l p u c sb w rn list) s = refuseIf (s.blockRefusal l sb w rn list)
      (if !Word.aligned (s.reg rn) then .refused .unalignedAccess
       else if s.outOfRange (s.blockAddrs p u rn list) then takeException .addressException { s with hazard := false }
       else rest) := by
  rw [exec_blockInstr]
  cases l with
  | true => exact ⟨_, instruction_ready hs _⟩
  | false => exact ⟨_, instruction_ready hs _⟩

theorem exec_blockInstr_refused {r : Refusal} (hs : s.ready c (rn :: listRegs list) = true)
    (hr : s.blockRefusal l sb w rn list = some r) : exec (blockInstr l p u c sb w rn list) s = .refused r := by
  obtain ⟨rest, h⟩ := exec_blockInstr_checks (l := l) (p := p) (u := u) (sb := sb) (w := w) hs
  rw [h, hr, refuseIf]

theorem exec_blockInstr_unaligned (hs : s.ready c (rn :: listRegs list) = true)
    (hr : s.blockRefusal l sb w rn list = none) (ha : Word.aligned (s.reg rn) = false) :
    exec (blockInstr l p u c sb w rn list) s = .refused .unalignedAccess := by
  obtain ⟨rest, h⟩ := exec_blockInstr_checks (l := l) (p := p) (u := u) (sb := sb) (w := w) hs
  rw [h, hr, refuseIf, if_pos (by simp [ha])]

theorem exec_blockInstr_outOfRange (h : s.BlockAdmitted l c sb w rn list)
    (hout : s.outOfRange (s.blockAddrs p u rn list) = true) :
    exec (blockInstr l p u c sb w rn list) s = takeException .addressException { s with hazard := false } := by
  obtain ⟨rest, he⟩ := exec_blockInstr_checks (l := l) (p := p) (u := u) (sb := sb) (w := w) h.ready
  rw [he, h.allowed, refuseIf, if_neg (by simp [h.aligned]), if_pos hout]

/-- In range, the words are read before a register is written, and R15 is written last (45_block_data_transfer R265,
R274). -/
theorem exec_blockInstr_loadAll (h : s.BlockAdmitted true c sb w rn list)
    (hin : s.outOfRange (s.blockAddrs p u rn list) = false) :
    exec (blockInstr true p u c sb w rn list) s =
      (let s₀ : State := { s with hazard := false }
       andThen s₀ (s₀.loadAll (s.blockAddrs p u rn list)) fun vs =>
         let user := userBank true sb list
         let t := (s₀.blockBack w rn (blockFinal u (s.reg rn) list)).blockLoadRegs user ((listRegs list).zip vs)
         if hasR15 list then andThen s₀ (t.writeR15 .blockRestoreInUser32 sb (vs.getLastD 0#32)) .next
         else .next (t.finishBlock user)) := by
  rw [exec_blockInstr, if_pos rfl, blockLoad, instruction_ready h.ready, State.blockRefusal_with_hazard, h.allowed,
    refuseIf]
  exact (if_neg (by simp [h.aligned])).trans (if_neg (by rw [Bool.not_eq_true]; exact hin))

/-- The registers and words of a load whose words are all there (45_block_data_transfer R265). -/
theorem exec_blockInstr_load (h : s.BlockAdmitted true c sb w rn list)
    (hacc : s.BlockAccess .read s.privileged p u rn list) :
    exec (blockInstr true p u c sb w rn list) s =
      (let g := s.blockWord p u rn list
       let user := userBank true sb list
       let t := s.blockLoaded user w rn (blockAfter u (s.reg rn) (listRegs list).length) list g
       if hasR15 list then
         andThen { s with hazard := false }
           (t.writeR15 .blockRestoreInUser32 sb (((listRegs list).map g).getLastD 0#32)) .next
       else .next (t.finishBlock user)) := by
  have hloads : ({ s with hazard := false } : State).loadAll (s.blockAddrs p u rn list) =
      .ok ((listRegs list).map (s.blockWord p u rn list)) := by
    rw [State.blockAddrs_eq, State.loadAll_of_access, List.map_map]
    · rfl
    · intro a ha
      obtain ⟨r, hr, rfl⟩ := List.mem_map.1 ha
      exact hacc r ((mem_listRegs list r).1 hr)
  rw [exec_blockInstr_loadAll h (State.inRange_of_access (by decide) hacc)]
  dsimp only
  rw [hloads, andThen, zip_map_self, blockFinal_eq]
  rfl

theorem exec_blockInstr_load_plain (h : s.BlockAdmitted true c sb w rn list) (h15 : hasR15 list = false)
    (hacc : s.BlockAccess .read s.privileged p u rn list) :
    exec (blockInstr true p u c sb w rn list) s =
      .next ((s.blockLoaded sb w rn (blockAfter u (s.reg rn) (listRegs list).length) list
        (s.blockWord p u rn list)).finishBlock sb) := by
  rw [exec_blockInstr_load h hacc, userBank_load h15]
  exact if_neg (by simp [h15])

/-- The word of R15 is the last one read. -/
theorem exec_blockInstr_load_r15 (h : s.BlockAdmitted true c sb w rn list) (h15 : hasR15 list = true)
    (hacc : s.BlockAccess .read s.privileged p u rn list) :
    exec (blockInstr true p u c sb w rn list) s =
      andThen { s with hazard := false }
        ((s.blockLoaded false w rn (blockAfter u (s.reg rn) (listRegs list).length) list
          (s.blockWord p u rn list)).writeR15 .blockRestoreInUser32 sb (s.blockWord p u rn list 15#4)) .next := by
  have hlast : ((listRegs list).map (s.blockWord p u rn list)).getLastD 0#32 = s.blockWord p u rn list 15#4 := by
    obtain ⟨pre, hpre⟩ := listRegs_r15 list h15
    rw [hpre, List.map_append, List.map_singleton, List.getLastD_concat]
  rw [exec_blockInstr_load h hacc, userBank_load_r15 h15]
  dsimp only
  rw [if_pos h15, hlast]

/-- The first word that is stopped stops the load before a register is written (45_block_data_transfer R279). -/
theorem exec_blockInstr_load_stopped {pre post : List Reg} {r : Reg} {e : Stop}
    (h : s.BlockAdmitted true c sb w rn list) (hin : s.outOfRange (s.blockAddrs p u rn list) = false)
    (hlist : listRegs list = pre ++ r :: post)
    (hpre : ∀ q ∈ pre, s.access .word .read s.privileged (blockWordAddr p u (s.reg rn) list q) = none)
    (he : s.access .word .read s.privileged (blockWordAddr p u (s.reg rn) list r) = some e) :
    exec (blockInstr true p u c sb w rn list) s = stopWith { s with hazard := false } e := by
  have hloads : ({ s with hazard := false } : State).loadAll (s.blockAddrs p u rn list) = .error e := by
    rw [State.blockAddrs_eq, hlist, List.map_append, List.map_cons]
    exact State.loadAll_stops _ _ _ e (List.forall_mem_map.2 hpre) he
  rw [exec_blockInstr_loadAll h hin]
  dsimp only
  rw [hloads, andThen]

/-- What a block store hands to memory: each register of the list with its address. -/
theorem State.blockStores_eq (s : State) (p u user : Bool) (rn : Reg) (list : BitVec 16) :
    (s.blockAddrs p u rn list).zip ((listRegs list).map (s.blockValue user rn)) =
      (listRegs list).map fun r => (blockWordAddr p u (s.reg rn) list r, s.blockValue user rn r) := by
  rw [State.blockAddrs_eq, zip_map_map]

/-- In range, the words are stored in order; what stops one leaves those before it (45_block_data_transfer R279). -/
theorem exec_blockInstr_storeAll {t : State} (h : s.BlockAdmitted false c sb w rn list)
    (hin : s.outOfRange (s.blockAddrs p u rn list) = false) {stop : Option Stop}
    (hstores : ({ s with hazard := false } : State).storeAll
      ((listRegs list).map fun r => (blockWordAddr p u (s.reg rn) list r, s.blockValue sb rn r)) = (t, stop)) :
    exec (blockInstr false p u c sb w rn list) s =
      stop.elim (.next ((t.blockBack w rn (blockFinal u (s.reg rn) list)).finishBlock sb)) (stopWith t) := by
  have hbody : ({ s with hazard := false } : State).storeAll
      ((({ s with hazard := false } : State).blockAddrs p u rn list).zip
        ((listRegs list).map (({ s with hazard := false } : State).blockValue sb rn))) = (t, stop) :=
    (congrArg _ (s.blockStores_eq p u sb rn list)).trans hstores
  rw [exec_blockInstr, if_neg Bool.false_ne_true, blockStore, instruction_ready h.ready, State.blockRefusal_with_hazard,
    h.allowed, refuseIf]
  refine (if_neg (by simp [h.aligned])).trans ((if_neg (by rw [Bool.not_eq_true]; exact hin)).trans ?_)
  dsimp only
  rw [userBank_store, hbody]
  cases stop <;> rfl

theorem exec_blockInstr_store (h : s.BlockAdmitted false c sb w rn list)
    (hacc : s.BlockAccess .write s.privileged p u rn list) :
    exec (blockInstr false p u c sb w rn list) s = .next (s.blockStored p u sb w rn list) := by
  rw [exec_blockInstr_storeAll h (State.inRange_of_access (by decide) hacc)
    (State.storeAll_of_access _ _ (List.forall_mem_map.2 fun r hr => hacc r ((mem_listRegs list r).1 hr))),
    Option.elim_none, List.foldl_map, blockFinal_eq]
  rfl

/-- The first word that is stopped stops the store with the words before it stored (45_block_data_transfer R279). -/
theorem exec_blockInstr_store_stopped {pre post : List Reg} {r : Reg} {e : Stop}
    (h : s.BlockAdmitted false c sb w rn list) (hin : s.outOfRange (s.blockAddrs p u rn list) = false)
    (hlist : listRegs list = pre ++ r :: post)
    (hpre : ∀ q ∈ pre, s.access .word .write s.privileged (blockWordAddr p u (s.reg rn) list q) = none)
    (he : s.access .word .write s.privileged (blockWordAddr p u (s.reg rn) list r) = some e) :
    exec (blockInstr false p u c sb w rn list) s =
      stopWith (({ s with hazard := false } : State).blockPut (blockWordAddr p u (s.reg rn) list)
        (s.blockValue sb rn) pre) e := by
  rw [exec_blockInstr_storeAll (stop := some e) h hin, Option.elim_some]
  rw [hlist, List.map_append, List.map_cons, State.storeAll_stops _ _ _ e (List.forall_mem_map.2 hpre) he,
    List.foldl_map]
  rfl

/-- In user mode S makes no difference without R15 in the list (45_block_data_transfer R275). -/
theorem exec_blockInstr_user (hs : s.ready c (rn :: listRegs list) = true) (h15 : hasR15 list = false)
    (hp : s.privileged = false) :
    exec (blockInstr l p u c true w rn list) s = exec (blockInstr l p u c false w rn list) s := by
  have hp₀ : ({ s with hazard := false } : State).privileged = false := hp
  have hback := fun v => State.privileged_blockBack hp₀ w rn v
  rw [exec_blockInstr, exec_blockInstr]
  cases l with
  | true =>
    have hregs := fun v rvs => State.privileged_blockLoadRegs (hback v) false rvs
    simp only [if_true, blockLoad, instruction_ready hs, State.blockRefusal_user hp₀, userBank_load h15, h15,
      State.blockLoadRegs_user (hback _), State.finishBlock_user (hregs _ _), Bool.false_eq_true, if_false]
  | false =>
    have hstores := fun stores v => State.privileged_blockBack (State.privileged_storeAll hp₀ stores) w rn v
    simp only [Bool.false_eq_true, if_false, blockStore, instruction_ready hs, State.blockRefusal_user hp₀,
      userBank_store, State.blockValue_user hp₀, State.finishBlock_user (hstores _ _)]

end

end Sys2Proof.Machine

open Sys2Proof.Machine in
/-- Settles O45: the loads leave each register of the list with its word and the base outside it with the final
address. -/
theorem blockLoadResult : Obligations.BlockLoadResult := by
  intro p u c w rn list s hs hrn hlist h15 hback ha hacc
  have hadm : s.BlockAdmitted true c false w rn list :=
    .of_base hs hrn hlist (fun _ => h15) hback ha fun _ _ => rfl
  let final := blockAfter u (s.reg rn) (listRegs list).length
  let g := s.blockWord p u rn list
  obtain ⟨hpsr, hpc, -, hsystem, hbytes⟩ := s.blockLoaded_frame false w rn final list g
  refine ⟨_, exec_blockInstr_load_plain hadm h15 hacc, fun r hr => ?word, fun hw => ?base, State.onlyRegs_blockLoaded,
    hpsr, State.successor_congr (congrArg Psr.mode hpsr) hpc, rfl, hsystem, hbytes⟩
  case word =>
    exact State.reg_of_read (ne_fifteen_of_mem_list h15 hr) hpsr fun x =>
      State.read_blockLoaded_listed (s := s) (user := false) hr
  case base => exact State.reg_of_read hrn hpsr fun x => State.read_blockLoaded_base hw (hback hw)

open Sys2Proof.Machine in
/-- Settles O46: the words of different registers do not overlap, and the base alone is written among the registers. -/
theorem blockStoreResult : Obligations.BlockStoreResult := by
  intro p u c w rn list s hs hrn hlist h15 hback ha hm hacc
  have hadm : s.BlockAdmitted false c false w rn list :=
    .of_base hs hrn hlist (fun _ => h15) hback ha fun _ _ => rfl
  obtain ⟨hword, hother⟩ := s.blockStored_memory p u false w rn list hm ha
  obtain ⟨hpsr, hpc, hhazard, hsystem⟩ := s.blockStored_frame p u false w rn list
  refine ⟨_, exec_blockInstr_store hadm hacc, fun r hr => (hword r hr).trans (s.blockValue_plain rn r), hother,
    fun hw => ?base, s.onlyRegs_blockStored p u false w rn list, hpsr, hpc, hhazard, hsystem⟩
  exact State.reg_of_read hrn hpsr fun x hx => (s.blockStored_read p u false w rn list x).trans (if_pos ⟨hw, hx⟩)

open Sys2Proof.Machine in
/-- Settles O47: the registers are loaded first, in the bank of the mode before; then R15 is written as by a data
processing instruction. -/
theorem blockLoadOfR15 : Obligations.BlockLoadOfR15 := by
  intro p u c sb w rn list s hs hrn h15 hback ha hacc v a jumps
  have hadm : s.BlockAdmitted true c sb w rn list :=
    .of_base hs hrn (list_ne_zero_of_r15 h15) (by simp) hback ha fun _ _ => userBank_load_r15 h15
  let final := blockAfter u (s.reg rn) (listRegs list).length
  let g := s.blockWord p u rn list
  let t := s.blockLoaded false w rn final list g
  obtain ⟨hpsr, -, hhazard, hsystem, hbytes⟩ := s.blockLoaded_frame false w rn final list g
  have ⟨_, hspsrs, _⟩ := hsystem
  have hmode : t.mode26 = s.mode26 := congrArg (fun q : Psr => q.mode.is26) hpsr
  have hexec := exec_blockInstr_load_r15 (p := p) (u := u) hadm h15 hacc
  have hok : ∀ q, t.writeR15 .blockRestoreInUser32 sb v = .ok { t with pc := a, psr := q } → jumps q := fun q hq =>
    ⟨{ t with pc := a, psr := q }, by rw [hexec, hq, andThen],
      fun r _ hr x => State.read_blockLoaded_listed (s := s) (user := false) hr,
      fun hw x => State.read_blockLoaded_base hw (hback hw), State.onlyRegs_blockLoaded, rfl, rfl, hhazard, hsystem,
      hbytes⟩
  have hstop : ∀ e, t.writeR15 .blockRestoreInUser32 sb v = .error e →
      exec (blockInstr true p u c sb w rn list) s = stopWith { s with hazard := false } e := fun e he => by
    rw [hexec, he, andThen]
  refine ⟨fun hsb => hok _ ?jump, fun hsb h26 => hok _ ?psr, fun hsb h32 hu => hstop (.refuse _) ?user,
    fun hsb h32 b hb => ?saved⟩
  case jump => rw [hsb, ← hpsr, State.writeR15_jump, State.pcTarget_eq, hmode]
  case psr =>
    rw [hsb, State.writeR15_26 (hmode.trans h26), hpsr]
    simp [a, h26]
  case user =>
    rw [hsb]
    exact State.writeR15_32_user (hmode.trans h32) (hpsr ▸ Mode.bank_of_not_privileged hu)
  case saved =>
    have ht32 : t.mode26 = false := hmode.trans h32
    have htb : t.psr.mode.bank = some b := hpsr ▸ hb
    have ha32 : v &&& 0xFFFFFFFC#32 = a := by simp [a, h32]
    rw [← hspsrs]
    refine ⟨fun hm => hstop (.fault _) ?undefined, fun m hm => ?mode⟩
    case undefined => rw [hsb, State.writeR15_32_undefined ht32 htb hm]
    case mode =>
      have hrestore := State.writeR15_32_restore (u := .blockRestoreInUser32) (v := v) ht32 htb hm
      rw [ha32] at hrestore
      exact ⟨fun hpc => hstop (.refuse _) (by rw [hsb, hrestore, if_pos hpc]),
        fun hpc => hok _ (by rw [hsb, hrestore, if_neg hpc])⟩

open Sys2Proof.Machine in
/-- Settles O48: the loads write the user registers and the stores read them; in user mode these are the registers of
the mode. -/
theorem userBankTransfers : Obligations.UserBankTransfers := by
  intro p u c rn list s hs hrn hlist h15 ha
  have hadm : ∀ l, s.BlockAdmitted l c true false rn list := fun l =>
    .of_base hs hrn hlist (fun _ => h15) (by simp) ha (by simp)
  refine ⟨fun hp hacc => ?load, fun hp hm hacc => ?store, fun hp l w => exec_blockInstr_user hs h15 hp⟩
  case load =>
    let final := blockAfter u (s.reg rn) (listRegs list).length
    let g := s.blockWord p u rn list
    obtain ⟨hpsr, hpc, -, hsystem, hbytes⟩ := s.blockLoaded_frame true false rn final list g
    refine ⟨_, exec_blockInstr_load_plain (hadm true) h15 (hp ▸ hacc), fun r hr => ?word, fun x hx => ?other, hpsr,
      State.successor_congr (congrArg Psr.mode hpsr) hpc, ?hazard, hsystem, hbytes⟩
    case word =>
      exact State.userReg_of_read (ne_fifteen_of_mem_list h15 hr) fun x =>
        State.read_blockLoaded_listed (s := s) (user := true) hr
    case other => exact (State.read_blockLoaded_unlisted (user := true) hx).trans (if_neg (by simp))
    case hazard => exact (congrArg (fun q : Psr => q.mode.privileged) hpsr).trans hp
  case store =>
    obtain ⟨hword, hother⟩ := s.blockStored_memory p u true false rn list hm ha
    obtain ⟨hpsr, hpc, hhazard, hsystem⟩ := s.blockStored_frame p u true false rn list
    exact ⟨_, exec_blockInstr_store (hadm false) (hp ▸ hacc), hword, hother, s.blockStored_regs p u true rn list,
      hpsr, hpc, hhazard.trans hp, hsystem⟩

open Sys2Proof.Machine in
/-- Settles O50: the range is looked at before any access; then the list is the registers before the one whose access
is stopped, that one, and those after it. -/
theorem blockAborts : Obligations.BlockAborts := by
  intro l p u c sb w rn list s hs hrn hlist hstore hback ha hm addr kind
  have hadm : s.BlockAdmitted l c sb w rn list :=
    .of_base hs hrn hlist hstore (fun hw => (hback hw).1) ha fun hw hp => ?user
  case user =>
    cases hsb : sb with
    | false => rfl
    | true =>
      rcases (hback hw).2 hsb with hu | ⟨rfl, h15⟩
      · exact (Bool.false_ne_true (hu.symm.trans hp)).elim
      · exact userBank_load_r15 h15
  refine ⟨fun hout => exec_blockInstr_outOfRange hadm (State.outOfRange_blockAddrs_iff.2 hout),
    fun r hr hin hbefore x hx => ?stopped⟩
  have hin := State.inRange_of_lt hin
  obtain ⟨pre, post, hsplit, hpre⟩ := listRegs_split list r hr
  have hacc : ∀ q ∈ pre, s.access .word kind s.privileged (addr q) = none := fun q hq =>
    have ⟨hq, hlt⟩ := (hpre q).1 hq
    hbefore q hq hlt
  have hkind : kind ≠ .fetch := by cases l <;> simp [kind]
  have hstop := (State.access_eq_some hkind).2 hx
  cases l with
  | true =>
    exact ⟨_, exec_blockInstr_load_stopped hadm hin hsplit hacc hstop, rfl, fun _ => ⟨rfl, rfl⟩, by simp,
      fun _ _ => rfl⟩
  | false =>
    obtain ⟨hword, hother⟩ := State.blockPut_read (s := { s with hazard := false }) (p := p) (u := u)
      (val := s.blockValue sb rn) (rs := pre) hm ha (fun q hq => ((hpre q).1 hq).1)
      ((listRegs_nodup list).sublist (by simp [hsplit]))
    refine ⟨_, exec_blockInstr_store_stopped hadm hin hsplit hacc hstop, State.blockPut_onlyMemory .., by simp,
      fun _ q hq hlt => hword q ((hpre q).2 ⟨hq, hlt⟩), fun b hb => hother b fun q hq => ?_⟩
    obtain ⟨hq, hlt⟩ := (hpre q).1 hq
    exact hb q hq hlt

open Sys2Proof.Machine in
/-- Settles O49: a transfer that no restriction refuses has the alignment as the one ground left. -/
theorem blockRestrictions : Obligations.BlockRestrictions := by
  intro l p u c sb w rn list s hs hground
  cases hr : s.blockRefusal l sb w rn list with
  | some r =>
    have hmem := List.mem_append_left [Refusal.unalignedAccess] (State.blockRefusal_mem hr)
    exact ⟨r, exec_blockInstr_refused hs hr, hmem⟩
  | none =>
    obtain ⟨hbase, hempty, huser, hback, hstore⟩ := State.blockRefusal_eq_none_iff.1 hr
    have ha : Sys2Proof.Word.aligned (s.reg rn) = false := by
      rcases hground with h | h | h | h | ⟨rfl, hw, hp, hl⟩ | h
      · exact absurd h hbase
      · exact absurd h hempty
      · exact absurd h hback
      · exact absurd h hstore
      · exact absurd ⟨userBank_iff.2 hl, hw, hp⟩ huser
      · exact h
    exact ⟨_, exec_blockInstr_unaligned hs hr ha, by simp⟩
end

section
/-!
PROOF. The software interrupt (46_software_interrupt R290): exception entry case by case, what it does to R14 of SVC
mode, and what SWI answers.
-/

namespace Sys2Proof.Machine

/-! ## Exception entry, case by case -/

section
variable {s : State} {e : Exc}

theorem takeException_entry32 (h : s.cfg.entry32 = true) : takeException e s =
    .next { s.enter e (s.pc + e.returnOffset) with spsrs := s.spsrs.write (e.bank true) s.psr.save } :=
  if_pos h

theorem takeException_entry26 (h : s.cfg.entry32 = false) (h26 : s.mode26 = true) : takeException e s =
    .next ((s.enter e (s.r15With (s.pc + e.returnOffset))).losesSpsr (e.bank false)) := by
  simp [takeException, h, h26]

/-- Without the 32-bit configuration no exception is taken from a 32-bit mode (60_exceptions R355, D8). -/
theorem takeException_refused (h : s.cfg.entry32 = false) (h26 : s.mode26 = false) :
    takeException e s = .refused .exceptionFrom32BitMode := by
  simp [takeException, h, h26]

@[simp] theorem State.enter_with_hazard (s : State) (e : Exc) (link : Word) (b : Bool) :
    ({ s with hazard := b } : State).enter e link = s.enter e link := by
  rw [State.enter_eq, State.enter_eq]

/-- Exception entry does not look at the hazard, which it ends (70_reset R412). -/
theorem takeException_with_hazard (s : State) (e : Exc) (b : Bool) :
    takeException e { s with hazard := b } = takeException e s := by
  unfold takeException
  simp only [State.enter_with_hazard]
  rfl

end

/-! ## What entry leaves unchanged -/

theorem State.enter_sameBytes (s : State) (e : Exc) (link : Word) : sameBytes s (s.enter e link) := by
  simp [sameBytes, State.byte]

theorem State.losesSpsr_sameBytes {s t : State} (b : ExcBank) (h : sameBytes s t) : sameBytes s (t.losesSpsr b) := by
  simpa [sameBytes, State.byte] using h

/-! ## Entry of a software interrupt -/

/-- Both SVC modes see R14_svc as R14 (10_state R24, 60_exceptions R353). -/
theorem Exc.preg_softwareInterrupt (entry32 : Bool) :
    (Exc.softwareInterrupt.mode entry32).preg 14#4 = some (.svc 1) := by
  cases entry32 <;> rfl

section
variable (s : State) (link : Word)

theorem State.enter_softwareInterrupt_link : (s.enter .softwareInterrupt link).regs.read (.svc 1) = link := by
  rw [State.enter_read, if_pos (Exc.preg_softwareInterrupt _)]

theorem State.enter_softwareInterrupt_read_other {p : PReg} (hp : p ≠ .svc 1) :
    (s.enter .softwareInterrupt link).regs.read p = s.regs.read p := by
  rw [State.enter_read, Exc.preg_softwareInterrupt, if_neg fun h => hp (Option.some.inj h).symm]

theorem State.enter_softwareInterrupt_psr {b : Bool} (h : s.cfg.entry32 = b) : (s.enter .softwareInterrupt link).psr =
    { s.psr with mode := Exc.softwareInterrupt.mode b, i := true } := by
  simp [h]

end

/-- SWI names no register, so the hazard does not hold it back, and its comment field is not looked at
(46_software_interrupt R290). -/
theorem exec_swi_of_condPassed {c : Cond} {s : State} (k : BitVec 24) (hc : condPassed c s.psr = true) :
    exec (.swi c k) s = takeException .softwareInterrupt s :=
  have hready : s.ready c [] = true := by simp [State.ready, hc, anyBanked]
  (instruction_ready hready _).trans (takeException_with_hazard s _ false)

end Sys2Proof.Machine

open Sys2Proof.Machine in
/-- Settles O23: SWI is the entry of its own exception, and the configuration and the mode say which of the three
cases of entry it is. -/
theorem softwareInterruptEntry : Obligations.SoftwareInterruptEntry := by
  intro c k s hc
  rw [exec_swi_of_condPassed k hc]
  refine ⟨fun h32 => ?entry32, fun h32 h26 => ?entry26, takeException_refused⟩
  case entry32 =>
    exact ⟨_, takeException_entry32 h32, rfl, s.enter_softwareInterrupt_link _, s.enter_softwareInterrupt_psr _ h32, rfl,
      fun _ => s.enter_softwareInterrupt_read_other _, s.enter_sameBytes .softwareInterrupt (s.pc + 4#32)⟩
  case entry26 =>
    refine ⟨_, takeException_entry26 h32 h26, ?link, ?psr, State.losesSpsr_pc .., fun p hp => ?other,
      State.losesSpsr_sameBytes _ (s.enter_sameBytes ..)⟩
    case link => rw [State.losesSpsr_regs]; exact s.enter_softwareInterrupt_link _
    case psr => rw [State.losesSpsr_psr]; exact s.enter_softwareInterrupt_psr _ h32
    case other => rw [State.losesSpsr_regs]; exact s.enter_softwareInterrupt_read_other _ hp
end

section
/-!
PROOF. The control bits of the PSR (I, F and the mode; 10_state R40) and the hazard of 70_reset R412. Every answer but
those of the P forms and the block transfers is tame: it ends the hazard, and from user mode it keeps the control bits
or enters an exception. The two families that can start the hazard are looked at by themselves. From these: how user
mode is left (60_exceptions R380), and which instructions start the hazard.
-/

namespace Sys2Proof.Machine

/-! ## What a tame answer is -/

/-- The bits of the PSR that user mode may not write (10_state R40). -/
def Psr.control (p : Psr) : Mode × Bool × Bool := (p.mode, p.i, p.f)

/-- The machine is in a privileged mode with I set, at one of the eight vectors (60_exceptions R350, R352). -/
def State.AtVector (t : State) : Prop :=
  t.privileged = true ∧ t.psr.i = true ∧
    t.pc ∈ [0x00#32, 0x04#32, 0x08#32, 0x0C#32, 0x10#32, 0x14#32, 0x18#32, 0x1C#32]

/-- From user mode: the control bits kept (10_state R40). -/
def ControlKept (s t : State) : Prop := s.privileged = false → t.psr.control = s.psr.control

/-- From user mode: the control bits kept, or an exception entered (60_exceptions R380). -/
def UserKept (s t : State) : Prop := s.privileged = false → t.psr.control = s.psr.control ∨ t.AtVector

/-- The hazard is over, and user mode kept or left by an exception. -/
def Tame (s t : State) : Prop := t.hazard = false ∧ UserKept s t

theorem ControlKept.tame {s t : State} (h : ControlKept s t) (ht : t.hazard = false) : Tame s t :=
  ⟨ht, fun hu => .inl (h hu)⟩

theorem Psr.control_withTopFlags (p : Psr) (w : Word) : (p.withTopFlags w).control = p.control := rfl

theorem ControlKept.of_psr_eq {s t u : State} (h : ControlKept t u) (hpsr : t.psr = s.psr) : ControlKept s u := by
  simpa only [ControlKept, State.privileged, hpsr] using h

/-- Without privilege R15 takes the flags alone from a word (41_data_processing R188). -/
theorem Psr.control_writeR15 {p : Psr} (h : p.mode.privileged = false) (w : Word) :
    (p.writeR15 w).control = p.control := by
  simp [Psr.writeR15, h, Psr.control_withTopFlags]

/-! ## Exceptions and the frame of an instruction -/

theorem Exc.mode_privileged (e : Exc) (b : Bool) : (e.mode b).privileged = true := by
  cases e <;> cases b <;> rfl

theorem Exc.vector_mem (e : Exc) :
    e.vector ∈ [0x00#32, 0x04#32, 0x08#32, 0x0C#32, 0x10#32, 0x14#32, 0x18#32, 0x1C#32] := by
  cases e <;> decide

theorem takeException_atVector {e : Exc} {s t : State} (h : takeException e s = .next t) : t.AtVector := by
  rcases takeException_next h with ⟨-, rfl⟩ | ⟨-, -, rfl⟩
  · exact ⟨by simp [State.privileged, Exc.mode_privileged], by simp, e.vector_mem⟩
  · refine ⟨by simp [State.privileged, Exc.mode_privileged], by simp, ?_⟩
    rw [State.losesSpsr_pc, State.enter_pc]
    exact e.vector_mem

theorem resetEvent_atVector (s : State) : (resetEvent s).AtVector := by
  refine ⟨?_, rfl, List.mem_cons_self⟩
  unfold State.privileged resetEvent
  dsimp only
  split <;> rfl

/-- An exception is tame whatever the state `s` the instruction began in. -/
theorem takeException_tame (e : Exc) (s u : State) : Ensures (takeException e u) (Tame s) := fun _ h =>
  ⟨takeException_hazard h, fun _ => .inr (takeException_atVector h)⟩

theorem stopWith_tame (s u : State) (e : Stop) : Ensures (stopWith u e) (Tame s) :=
  ensures_stopWith fun x _ => takeException_tame x s u

theorem ensures_andThen_tame {α : Type} {s : State} {r : Except Stop α} {k : α → Answer}
    (h : ∀ a, r = .ok a → Ensures (k a) (Tame s)) : Ensures (andThen s r k) (Tame s) :=
  ensures_andThen (fun x _ => takeException_tame x s s) h

/-- Passing over an instruction is tame. -/
theorem tame_skip (s : State) : Tame s { s with pc := s.successor, hazard := false } := ⟨rfl, fun _ => .inl rfl⟩

/-- The answers of an operation are tame. -/
def IsTame (m : State → Answer) : Prop := ∀ s, Ensures (m s) (Tame s)

/-- The answers of a rule that is run with the hazard cleared are tame. -/
def BodyTame (body : State → Answer) : Prop := ∀ s, s.hazard = false → Ensures (body s) (Tame s)

theorem conditional_tame {c : Cond} {body : State → Answer} (h : IsTame body) :
    IsTame fun s => conditional c s body := fun s => ensures_conditional (tame_skip s) fun _ => h s

theorem instruction_tame {c : Cond} {rs : List Reg} {body : State → Answer} (h : BodyTame body) :
    IsTame fun s => instruction c rs s body := fun s =>
  ensures_instruction (tame_skip s) fun _ => h { s with hazard := false } rfl

theorem withCoproc_tame {i : Instr} {p : BitVec 4} {rs : List Reg} {body : Coproc → State → Answer}
    (h : ∀ k, BodyTame (body k)) : IsTame fun s => withCoproc i p rs s body := fun s =>
  ensures_withCoproc (takeException_tame _ s s) fun k _ => h k { s with hazard := false } rfl

/-- A rule that completes with the PSR and the hazard as it found them. -/
theorem ensures_next_tame {s t : State} (hs : s.hazard = false) (hpsr : t.psr = s.psr) (ht : t.hazard = s.hazard) :
    Ensures (.next t) (Tame s) :=
  ensures_next.2 ⟨ht.trans hs, fun _ => .inl (by rw [hpsr])⟩

/-! ## The operations that keep the control bits -/

theorem State.setProduct_tame {s : State} (hs : s.hazard = false) (sb : Bool) (rd : Reg) (v : Word) :
    Tame s (s.setProduct sb rd v).advance := by
  cases sb <;> exact ⟨by simp [State.setProduct, hs], fun _ => .inl (by simp [State.setProduct, Psr.control])⟩

theorem State.setLongProduct_tame {s : State} (hs : s.hazard = false) (sb : Bool) (rh rl : Reg) (r : BitVec 64) :
    Tame s (s.setLongProduct sb rh rl r).advance := by
  cases sb <;> exact ⟨by simp [State.setLongProduct, hs], fun _ => .inl (by simp [State.setLongProduct, Psr.control])⟩

theorem State.setResult_tame {s : State} (hs : s.hazard = false) (sb : Bool) (rd : Reg) (r : AluResult) :
    Tame s (s.setResult sb rd r).advance := by
  cases sb <;> exact ⟨by simp [hs], fun _ => .inl (by simp [Psr.control])⟩

@[simp] theorem State.storeAll_psr (s : State) (l : List (Word × Word)) : (s.storeAll l).1.psr = s.psr := by
  rw [s.storeAll_onlyMemory l]

@[simp] theorem State.storeAll_hazard (s : State) (l : List (Word × Word)) :
    (s.storeAll l).1.hazard = s.hazard := by
  rw [s.storeAll_onlyMemory l]

/-- In user mode no SPSR is restored, and R15 of a 26-bit mode gives the flags alone (41_data_processing R188, R189). -/
theorem State.writeR15_controlKept {s t : State} {u : Refusal} {r : Bool} {v : Word} (h : s.writeR15 u r v = .ok t) :
    t.hazard = s.hazard ∧ ControlKept s t := by
  rcases State.writeR15_ok h with ⟨-, rfl⟩ | ⟨-, -, rfl⟩ | ⟨-, -, b, m, hb, -, -, rfl⟩
  · exact ⟨rfl, fun _ => rfl⟩
  · exact ⟨rfl, fun hu => Psr.control_writeR15 hu v⟩
  · refine ⟨rfl, fun hu => ?_⟩
    rw [Mode.bank_of_not_privileged hu] at hb
    cases hb

/-- MSR writes the control bits of the CPSR in a privileged mode alone (49_status R332). -/
theorem State.writeCpsr_controlKept {s t : State} {a : PsrField} {v : Word} (h : s.writeCpsr a v = .ok t) :
    t.hazard = s.hazard ∧ ControlKept s t := by
  unfold State.writeCpsr at h
  dsimp only at h
  split at h
  · next hp =>
    have hp : s.privileged = true := (Bool.and_eq_true_iff.1 hp).2
    split at h
    · cases h
    · split at h <;> cases h
      exact ⟨rfl, fun hu => absurd (hu.symm.trans hp) Bool.false_ne_true⟩
  · cases h
    refine ⟨rfl, fun _ => ?_⟩
    cases a <;> rfl

theorem State.writeSpsr_controlKept {s t : State} {a : PsrField} {v : Word} (h : s.writeSpsr a v = .ok t) :
    t.hazard = s.hazard ∧ ControlKept s t := by
  unfold State.writeSpsr at h
  split at h <;> cases h
  exact ⟨rfl, fun _ => rfl⟩

/-! ## The meanings that are tame -/

section
variable {c : Cond} {sb p u n w : Bool} {rn rd rm : Reg}

theorem multiply_tame {named : List Reg} {result : State → Word} : IsTame (multiply c sb rd rm named result) :=
  instruction_tame fun _ hs => ensures_refuseIf fun _ => ensures_next.2 (State.setProduct_tame hs ..)

theorem longMultiply_tame {signed accumulate : Bool} {rh rl rs : Reg} :
    IsTame (longMultiply signed accumulate c sb rh rl rs rm) :=
  instruction_tame fun _ hs => ensures_refuseIf fun _ => ensures_next.2 (State.setLongProduct_tame hs ..)

theorem swap_tame {z : Size} : IsTame (swap z c rn rd rm) :=
  instruction_tame fun _ hs =>
    ensures_ite (fun _ => ensures_refused _) fun _ =>
    ensures_ite (fun _ => ensures_refused _) fun _ =>
    ensures_andThen_tame fun _ _ => ensures_andThen_tame fun _ ht => by
      obtain ⟨-, rfl⟩ := State.store_ok ht
      exact ensures_next_tame hs (by simp) (by simp)

theorem trap_tame {e : Exc} : IsTame fun s => instruction c [] s (takeException e) :=
  instruction_tame fun s _ => takeException_tame e s s

theorem execMrs_tame {spsr : Bool} : IsTame (execMrs c spsr rd) :=
  instruction_tame fun _ hs => ensures_ite (fun _ => ensures_refused _) fun _ => by
    split
    · exact ensures_refused _
    · exact ensures_next_tame hs (by simp) (by simp)

theorem msr_tame {s : State} (hs : s.hazard = false) (spsr : Bool) (a : PsrField) (v : Word) :
    Ensures (s.msr spsr a v) (Tame s) :=
  ensures_andThen_tame fun t ht =>
    have hkept : t.hazard = s.hazard ∧ ControlKept s t := by
      cases spsr with
      | false => exact State.writeCpsr_controlKept ht
      | true => exact State.writeSpsr_controlKept ht
    ensures_next.2 (ControlKept.tame (t := t.advance) hkept.2 (hkept.1.trans hs))

theorem execMsrReg_tame {spsr : Bool} {a : PsrField} : IsTame (execMsrReg c spsr a rm) :=
  instruction_tame fun _ hs => ensures_ite (fun _ => ensures_refused _) fun _ => msr_tame hs _ _ _

theorem execMsrImm_tame {spsr : Bool} {a : PsrField} {rot : BitVec 4} {imm : BitVec 8} :
    IsTame (execMsrImm c spsr a rot imm) :=
  instruction_tame fun _ hs => msr_tame hs _ _ _

theorem writeR15_tame {s : State} (hs : s.hazard = false) (u : Refusal) (v : Word) :
    Ensures (andThen s (s.writeR15 u sb v) .next) (Tame s) :=
  ensures_andThen_tame fun _ ht =>
    have ⟨hhazard, hkept⟩ := State.writeR15_controlKept ht
    ensures_next.2 (hkept.tame (hhazard.trans hs))

theorem dataProc_tame {op : AluOp} {o : Op2} : IsTame (dataProc op c sb rn rd o) :=
  instruction_tame fun _ hs => ensures_refuseIf fun _ =>
    ensures_ite (fun _ => writeR15_tame hs _ _) fun _ => ensures_next.2 (State.setResult_tame hs ..)

theorem dataTest_tame {op : AluOp} {o : Op2} : IsTame (dataTest op c rn o) :=
  instruction_tame fun _ hs => ensures_refuseIf fun _ => ensures_next.2 ⟨hs, fun _ => .inl rfl⟩

theorem singleTransfer_tame {l : Bool} {z : Size} {o : Offset} : IsTame (singleTransfer l z c p u w rn rd o) :=
  instruction_tame fun s hs => ensures_refuseIf fun _ =>
    ensures_ite (fun _ => ensures_refused _) fun _ =>
    ensures_ite
      (fun _ => ensures_andThen_tame fun v _ =>
        have ⟨hhazard, _⟩ := (s.writeBack p w rn (s.transferIndex u rn o)).finishLoad_frame rd v
        ensures_next_tame hs (by simp) (hhazard.trans (State.writeBack_hazard ..)))
      fun _ => ensures_andThen_tame fun _ ht => by
        obtain ⟨-, rfl⟩ := State.store_ok ht
        exact ensures_next_tame hs (by simp) (by simp)

theorem execB_tame {off : BitVec 24} : IsTame (execB c off) :=
  instruction_tame fun _ hs => ensures_next_tame hs rfl rfl

theorem execBl_tame {off : BitVec 24} : IsTame (execBl c off) :=
  instruction_tame fun _ hs => ensures_next_tame hs (by simp) (by simp)

section
variable {opc crn crd cp crm : BitVec 4} {op q : BitVec 3} {off : BitVec 8}

theorem execCdp_tame : IsTame (execCdp c opc crn crd cp q crm) :=
  conditional_tame (withCoproc_tame fun _ _ hs => ensures_next_tame hs rfl rfl)

/-- MRC into R15 writes the flags alone (47_coprocessor R308). -/
theorem execMrc_tame : IsTame (execMrc c op crn rd cp q crm) :=
  conditional_tame (withCoproc_tame fun _ _ hs => by
    dsimp only
    split
    · exact ensures_next.2 ⟨hs, fun _ => .inl rfl⟩
    · exact ensures_next_tame hs (by simp) (by simp))

theorem execMcr_tame : IsTame (execMcr c op crn rd cp q crm) :=
  conditional_tame fun s => ensures_ite (fun _ => ensures_refused _) fun _ =>
    ensures_withCoproc (takeException_tame _ s s) fun _ _ => ensures_next.2 ⟨rfl, fun _ => .inl rfl⟩

theorem execLdc_tame : IsTame (execLdc c p u n w rn crd cp off) :=
  conditional_tame (withCoproc_tame fun _ _ hs =>
    ensures_ite (fun _ => ensures_refused _) fun _ =>
    ensures_ite (fun _ => ensures_refused _) fun _ =>
    ensures_andThen_tame fun _ _ => ensures_next_tame hs (by simp) (by simp))

theorem execStc_tame : IsTame (execStc c p u n w rn crd cp off) :=
  conditional_tame (withCoproc_tame fun _ s hs =>
    ensures_ite (fun _ => ensures_refused _) fun _ =>
    ensures_ite (fun _ => ensures_refused _) fun _ => by
      dsimp only
      split
      · exact stopWith_tame s _ _
      · exact ensures_next_tame hs (by simp) (by simp))

end

/-! ## The P forms and the block transfers -/

/-- A P form starts the hazard when it changes the mode, which it can do in a privileged mode alone (70_reset R412). -/
def StartsByMode (s t : State) : Prop := t.hazard = true → s.privileged = true ∧ t.psr.mode ≠ s.psr.mode

theorem dataTestP_effect {op : AluOp} {o : Op2} (s : State) :
    Ensures (dataTestP op c rn o s) fun t => UserKept s t ∧ StartsByMode s t :=
  ensures_instruction ⟨fun _ => .inl rfl, fun h => by cases h⟩ fun _ =>
    ensures_ite (fun _ => ensures_refused _) fun _ => ensures_refuseIf fun _ => ensures_next.2
      ⟨fun hu => .inl (Psr.control_writeR15 hu _), fun h => by
        have hmode := of_decide_eq_true h
        refine ⟨Bool.eq_true_of_not_eq_false fun hu => hmode ?_, hmode⟩
        exact congrArg Prod.fst (Psr.control_writeR15 (p := s.psr) hu _)⟩

/-- A block transfer starts the hazard when it is one of the user bank in a privileged mode (70_reset R413). -/
def StartsByBank (l sb w : Bool) (list : BitVec 16) (s t : State) : Prop :=
  t.hazard = true → s.privileged = true ∧ sb = true ∧ w = false ∧ (l = false ∨ hasR15 list = false)

/-- What a block transfer that goes through leaves: no control bit is written, and the hazard is that of its bank. -/
theorem finishBlock_effect {l : Bool} {list : BitVec 16} {s t : State} (hpsr : t.psr = s.psr)
    (hr : s.blockRefusal l sb w rn list = none) :
    UserKept s (t.finishBlock (userBank l sb list)) ∧
      StartsByBank l sb w list s (t.finishBlock (userBank l sb list)) := by
  refine ⟨fun _ => .inl (by simp [hpsr]), fun h => ?_⟩
  obtain ⟨-, -, hback, -⟩ := State.blockRefusal_eq_none_iff.1 hr
  simp only [State.finishBlock_hazard, State.privileged, hpsr, Bool.and_eq_true] at h
  obtain ⟨hbank, hp⟩ := h
  refine ⟨hp, ?_, Bool.eq_false_iff.2 fun hw => hback ⟨hbank, hw, hp⟩, ?_⟩
  · exact (Bool.and_eq_true_iff.1 hbank).1
  · simpa [userBank, or_comm] using (Bool.and_eq_true_iff.1 hbank).2

/-- A tame answer starts no hazard. -/
theorem Tame.effect {l : Bool} {list : BitVec 16} {s t : State} (h : Tame s t) :
    UserKept s t ∧ StartsByBank l sb w list s t :=
  ⟨h.2, fun ht => absurd (h.1.symm.trans ht) Bool.false_ne_true⟩

theorem Ensures.mono {a : Answer} {P Q : State → Prop} (h : Ensures a P) (hPQ : ∀ t, P t → Q t) : Ensures a Q :=
  fun t ht => hPQ t (h t ht)

theorem blockLoad_effect {list : BitVec 16} (s : State) :
    Ensures (blockLoad p u c sb w rn list s) fun t => UserKept s t ∧ StartsByBank true sb w list s t :=
  ensures_instruction (tame_skip s).effect fun _ => ensures_refuseIf fun hr =>
    ensures_ite (fun _ => ensures_refused _) fun _ =>
    ensures_ite (fun _ => (takeException_tame _ s _).mono fun _ => Tame.effect) fun _ =>
    ensures_andThen (fun x _ => (takeException_tame x s _).mono fun _ => Tame.effect) fun _ _ =>
    ensures_ite
      (fun _ => ensures_andThen (fun x _ => (takeException_tame x s _).mono fun _ => Tame.effect) fun _ ht => by
        obtain ⟨hhazard, hkept⟩ := State.writeR15_controlKept ht
        exact ensures_next.2 (Tame.effect ((hkept.of_psr_eq (by simp)).tame (by simp [hhazard]))))
      fun _ => ensures_next.2 (finishBlock_effect (by simp) hr)

theorem blockStore_effect {list : BitVec 16} (s : State) :
    Ensures (blockStore p u c sb w rn list s) fun t => UserKept s t ∧ StartsByBank false sb w list s t :=
  ensures_instruction (tame_skip s).effect fun _ => ensures_refuseIf fun hr =>
    ensures_ite (fun _ => ensures_refused _) fun _ =>
    ensures_ite (fun _ => (takeException_tame _ s _).mono fun _ => Tame.effect) fun _ => by
      dsimp only
      split
      · exact (stopWith_tame s _ _).mono fun _ => Tame.effect
      · exact ensures_next.2 (finishBlock_effect (by simp) hr)

end

/-! ## The instructions and the step -/

/-- The meanings that are neither a P form nor a block transfer are tame. -/
theorem exec_tame_or (i : Instr) : IsTame (exec i) ∨ (∃ k c rn o, i = testPInstr k c rn o) ∨
    ∃ l p u c sb w rn list, i = blockInstr l p u c sb w rn list := by
  cases i with
  | mul | mla => exact .inl multiply_tame
  | umull | umlal | smull | smlal => exact .inl longMultiply_tame
  | swp | swpb => exact .inl swap_tame
  | undefinedArm2 | undefined | swi => exact .inl trap_tame
  | mrs => exact .inl execMrs_tame
  | msrReg => exact .inl execMsrReg_tame
  | msrImm => exact .inl execMsrImm_tame
  | tstpImm c rn rot imm => exact .inr (.inl ⟨.tst, c, rn, .imm rot imm, rfl⟩)
  | tstpReg c rn amt sh rm => exact .inr (.inl ⟨.tst, c, rn, .reg amt sh rm, rfl⟩)
  | tstpRegShift c rn rs sh rm => exact .inr (.inl ⟨.tst, c, rn, .regShift rs sh rm, rfl⟩)
  | teqpImm c rn rot imm => exact .inr (.inl ⟨.teq, c, rn, .imm rot imm, rfl⟩)
  | teqpReg c rn amt sh rm => exact .inr (.inl ⟨.teq, c, rn, .reg amt sh rm, rfl⟩)
  | teqpRegShift c rn rs sh rm => exact .inr (.inl ⟨.teq, c, rn, .regShift rs sh rm, rfl⟩)
  | cmppImm c rn rot imm => exact .inr (.inl ⟨.cmp, c, rn, .imm rot imm, rfl⟩)
  | cmppReg c rn amt sh rm => exact .inr (.inl ⟨.cmp, c, rn, .reg amt sh rm, rfl⟩)
  | cmppRegShift c rn rs sh rm => exact .inr (.inl ⟨.cmp, c, rn, .regShift rs sh rm, rfl⟩)
  | cmnpImm c rn rot imm => exact .inr (.inl ⟨.cmn, c, rn, .imm rot imm, rfl⟩)
  | cmnpReg c rn amt sh rm => exact .inr (.inl ⟨.cmn, c, rn, .reg amt sh rm, rfl⟩)
  | cmnpRegShift c rn rs sh rm => exact .inr (.inl ⟨.cmn, c, rn, .regShift rs sh rm, rfl⟩)
  | tstImm | tstReg | tstRegShift | teqImm | teqReg | teqRegShift | cmpImm | cmpReg | cmpRegShift
  | cmnImm | cmnReg | cmnRegShift => exact .inl dataTest_tame
  | ldrtImm | ldrtReg | strtImm | strtReg | ldrbtImm | ldrbtReg | strbtImm | strbtReg
  | ldrImm | ldrReg | strImm | strReg | ldrbImm | ldrbReg | strbImm | strbReg => exact .inl singleTransfer_tame
  | ldmia c sb w rn list => exact .inr (.inr ⟨true, false, true, c, sb, w, rn, list, rfl⟩)
  | ldmib c sb w rn list => exact .inr (.inr ⟨true, true, true, c, sb, w, rn, list, rfl⟩)
  | ldmda c sb w rn list => exact .inr (.inr ⟨true, false, false, c, sb, w, rn, list, rfl⟩)
  | ldmdb c sb w rn list => exact .inr (.inr ⟨true, true, false, c, sb, w, rn, list, rfl⟩)
  | stmia c sb w rn list => exact .inr (.inr ⟨false, false, true, c, sb, w, rn, list, rfl⟩)
  | stmib c sb w rn list => exact .inr (.inr ⟨false, true, true, c, sb, w, rn, list, rfl⟩)
  | stmda c sb w rn list => exact .inr (.inr ⟨false, false, false, c, sb, w, rn, list, rfl⟩)
  | stmdb c sb w rn list => exact .inr (.inr ⟨false, true, false, c, sb, w, rn, list, rfl⟩)
  | b => exact .inl execB_tame
  | bl => exact .inl execBl_tame
  | ldc => exact .inl execLdc_tame
  | stc => exact .inl execStc_tame
  | cdp => exact .inl execCdp_tame
  | mrc => exact .inl execMrc_tame
  | mcr => exact .inl execMcr_tame
  | _ => exact .inl dataProc_tame

theorem exec_testPInstr_effect (k : TestOp) (c : Cond) (rn : Reg) (o : Op2) (s : State) :
    Ensures (exec (testPInstr k c rn o) s) fun t => UserKept s t ∧ StartsByMode s t := by
  rw [exec_testPInstr]
  exact dataTestP_effect s

theorem exec_blockInstr_effect (l p u : Bool) (c : Cond) (sb w : Bool) (rn : Reg) (list : BitVec 16) (s : State) :
    Ensures (exec (blockInstr l p u c sb w rn list) s) fun t => UserKept s t ∧ StartsByBank l sb w list s t := by
  rw [exec_blockInstr]
  cases l with
  | true => exact blockLoad_effect s
  | false => exact blockStore_effect s

theorem exec_userKept (i : Instr) (s : State) : Ensures (exec i s) (UserKept s) := by
  rcases exec_tame_or i with h | ⟨k, c, rn, o, rfl⟩ | ⟨l, p, u, c, sb, w, rn, list, rfl⟩
  · exact (h s).mono fun _ => And.right
  · exact (exec_testPInstr_effect k c rn o s).mono fun _ => And.left
  · exact (exec_blockInstr_effect l p u c sb w rn list s).mono fun _ => And.left

theorem runWord_userKept (w : Word) (s : State) : Ensures (runWord w s) (UserKept s) := by
  unfold runWord
  split
  · exact exec_userKept _ s
  · exact ensures_conditional (tame_skip s).2 fun _ => ensures_refused _

theorem step_userKept (s : State) : Ensures (step s) (UserKept s) := by
  intro t h
  have entered : ∀ e u, takeException e u = .next t → UserKept s t := fun _ _ he _ => .inr (takeException_atVector he)
  rcases step_cases s with ⟨-, hs⟩ | ⟨-, -, hs⟩ | ⟨-, -, hs⟩ | hs <;> rw [hs] at h
  · cases h; exact fun _ => .inr (resetEvent_atVector _)
  · exact entered _ _ h
  · exact entered _ _ h
  · rcases runInstruction_next h with h | ⟨w, -, h⟩
    · exact entered _ _ h
    · exact runWord_userKept w s.sampled t h

end Sys2Proof.Machine

open Sys2Proof.Machine in
/-- Settles O14: no rule writes a control bit in user mode but exception entry and the reset event, which go to a
vector in a privileged mode. -/
theorem userModeLeftOnlyByException : Obligations.UserModeLeftOnlyByException := by
  intro s t hu h
  refine (step_userKept s t h hu).imp_left fun hcontrol => ?_
  simpa only [Psr.control, Prod.mk.injEq] using hcontrol
end

section
/-!
PROOF. The inputs at an instruction boundary in their order (60_exceptions R364), the reset event (70_reset R400), and
exception entry with all that it changes and leaves (60_exceptions R352 to R358), with the return from it (R370).
-/

namespace Sys2Proof.Machine

/-! ## The step by its inputs -/

section
variable {s : State}

theorem step_of_reset (h : (s.inputs.headD quiet).reset = true) : step s = .next (resetEvent s.sampled) := if_pos h

theorem step_of_fiq (hr : (s.inputs.headD quiet).reset = false) (hf : (s.inputs.headD quiet).fiq = true)
    (hmask : s.psr.f = false) : step s = takeException .fiq s.sampled := by
  simp only [step, cycle, hr, hf, hmask]
  rfl

/-- An FIQ that is not taken is not asserted, or masked by F (60_exceptions R364). -/
theorem step_of_irq (hr : (s.inputs.headD quiet).reset = false)
    (hf : (s.inputs.headD quiet).fiq = true → s.psr.f = true) (hi : (s.inputs.headD quiet).irq = true)
    (hmask : s.psr.i = false) : step s = takeException .irq s.sampled := by
  have hfiq : ((s.inputs.headD quiet).fiq && !s.psr.f) = false := by simpa using hf
  simp only [step, cycle, hr, hfiq, hi, hmask]
  rfl

theorem State.undisturbed_of_masked (hr : (s.inputs.headD quiet).reset = false)
    (hf : (s.inputs.headD quiet).fiq = true → s.psr.f = true)
    (hi : (s.inputs.headD quiet).irq = true → s.psr.i = true) : s.undisturbed = true := by
  have hfiq : ((s.inputs.headD quiet).fiq && !s.psr.f) = false := by simpa using hf
  have hirq : ((s.inputs.headD quiet).irq && !s.psr.i) = false := by simpa using hi
  simp only [State.undisturbed, hr, hfiq, hirq]
  rfl

end

/-- Memory is compared byte by byte, so it may be compared whole. -/
theorem sameBytes_of_mem {s t : State} (hmem : t.mem = s.mem) (hstored : t.stored = s.stored) : sameBytes s t :=
  ⟨fun a => congrArg (Memory.read · a) hmem, hstored⟩

@[simp] theorem resetEvent_mem (s : State) : (resetEvent s).mem = s.mem := by simp only [resetEvent]

@[simp] theorem resetEvent_stored (s : State) : (resetEvent s).stored = s.stored := by simp only [resetEvent]

@[simp] theorem resetEvent_inputs (s : State) : (resetEvent s).inputs = s.inputs := by simp only [resetEvent]

/-! ## What exception entry does -/

/-- The state `t` after the entry of `e` in mode `m` from `s`: R14 of `m` holds `link`, and beside the PSR and `pc`
nothing has changed but, as it may be, an SPSR (60_exceptions R355). -/
structure State.Entered (s : State) (e : Exc) (m : Mode) (link : Word) (t : State) : Prop where
  psr : t.psr = { s.psr with mode := m, i := true, f := s.psr.f || decide (e = .fiq) }
  read : ∀ p, t.regs.read p = if m.preg 14#4 = some p then link else s.regs.read p
  pc : t.pc = e.vector
  hazard : t.hazard = false
  bytes : sameBytes s t
  cfg : t.cfg = s.cfg
  cps : t.cps = s.cps
  inputs : t.inputs = s.inputs

section
variable {s t : State} {e : Exc} {m : Mode} {v : Word}

theorem State.Entered.link (h : s.Entered e m v t) {p : PReg} (hp : m.preg 14#4 = some p) :
    t.regs.read p = v :=
  (h.read p).trans (if_pos hp)

theorem State.Entered.other (h : s.Entered e m v t) {p : PReg} (hp : m.preg 14#4 ≠ some p) :
    t.regs.read p = s.regs.read p :=
  (h.read p).trans (if_neg hp)

/-- The instructions of the mode entered see the link in R14. -/
theorem State.Entered.reg (h : s.Entered e m v t) : t.reg 14#4 = v := by
  obtain ⟨p, hp⟩ := m.exists_preg 14#4 (by decide)
  rw [State.reg_eq t 14#4 p (by rw [h.psr, hp]), h.link hp]

theorem State.Entered.privileged {b : Bool} (h : s.Entered e (e.mode b) v t) : t.privileged = true := by
  rw [State.privileged, h.psr, Exc.mode_privileged]

theorem State.Entered.other_svc {b : Bool} (h : s.Entered .softwareInterrupt (Exc.softwareInterrupt.mode b) v t)
    {p : PReg} (hp : p ≠ .svc 1) : t.regs.read p = s.regs.read p :=
  h.other fun he => hp (Option.some.inj ((Exc.preg_softwareInterrupt b).symm.trans he)).symm

theorem State.enter_entered (s : State) (e : Exc) (link : Word) :
    s.Entered e (e.mode s.cfg.entry32) link (s.enter e link) :=
  ⟨by simp, s.enter_read e link, rfl, rfl, s.enter_sameBytes e link, by simp, by simp, by simp⟩

/-- The SPSRs are not what `State.Entered` speaks of. -/
theorem State.Entered.losesSpsr (h : s.Entered e m v t) (b : ExcBank) : s.Entered e m v (t.losesSpsr b) :=
  ⟨by simpa using h.psr, by simpa using h.read, by simpa using h.pc, by simpa using h.hazard,
    State.losesSpsr_sameBytes b h.bytes, by simpa using h.cfg, by simpa using h.cps, by simpa using h.inputs⟩

/-- Entry in the 32-bit configuration (60_exceptions R355). -/
theorem takeException_entered32 (e : Exc) (h32 : s.cfg.entry32 = true) :
    ∃ t, takeException e s = .next t ∧ s.Entered e (e.mode true) (s.pc + e.returnOffset) t ∧
      t.spsrs = s.spsrs.write (e.bank true) s.psr.save := by
  have h := s.enter_entered e (s.pc + e.returnOffset)
  rw [h32] at h
  exact ⟨_, takeException_entry32 h32, ⟨h.psr, h.read, h.pc, h.hazard, h.bytes, h.cfg, h.cps, h.inputs⟩, rfl⟩

/-- Entry from a 26-bit mode without the 32-bit configuration (60_exceptions R355). -/
theorem takeException_entered26 (e : Exc) (h32 : s.cfg.entry32 = false) (h26 : s.mode26 = true) :
    ∃ t, takeException e s = .next t ∧ s.Entered e (e.mode false) (s.r15With (s.pc + e.returnOffset)) t ∧
      t.spsrs = if s.cfg.variant.hasPsr32 then s.spsrs.write (e.bank false) (freeSavedPsr s.draws) else s.spsrs := by
  have h := (s.enter_entered e (s.r15With (s.pc + e.returnOffset))).losesSpsr (e.bank false)
  rw [h32] at h
  exact ⟨_, takeException_entry26 h32 h26, h, by simp⟩

end

/-! ## The saved PSRs -/

theorem Exc.mode_is32 (e : Exc) : (e.mode true).is26 = false := by
  cases e <;> rfl

theorem Exc.bank_mode (e : Exc) (b : Bool) : (e.mode b).bank = some (e.bank b) := by
  cases e <;> cases b <;> rfl

@[simp] theorem Spsrs.read_write_same (x : Spsrs) (b : ExcBank) (q : SavedPsr) : (x.write b q).read b = q := by
  cases b <;> rfl

theorem Spsrs.read_write_other (x : Spsrs) {b b' : ExcBank} (h : b' ≠ b) (q : SavedPsr) :
    (x.write b q).read b' = x.read b' := by
  revert h
  cases b <;> cases b' <;> simp [Spsrs.read, Spsrs.write]

/-- The PSR that exception entry saves names the mode it was saved in (10_state R35). -/
theorem Mode.ofBits_bits (m : Mode) : Mode.ofBits m.bits = some m := by
  cases m <;> rfl

/-! ## The undefined instructions -/

/-- An instruction that names no register waits for no hazard (70_reset R412). -/
theorem State.ready_nil {c : Cond} {s : State} (h : condPassed c s.psr = true) : s.ready c [] = true := by
  simpa [State.ready, anyBanked] using h

/-- The undefined instructions name no register, so the hazard does not hold them back (60_exceptions R358). -/
theorem exec_undefined_of_condPassed {i : Instr} {s : State}
    (hi : (∃ c hi lo, i = .undefined c hi lo) ∨ (∃ c hi mid lo, i = .undefinedArm2 c hi mid lo))
    (hc : condPassed i.cond s.psr = true) : exec i s = takeException .undefinedInstruction s := by
  have trap : ∀ c, condPassed c s.psr = true →
      instruction c [] s (takeException .undefinedInstruction) = takeException .undefinedInstruction s := fun c hc =>
    (instruction_ready (State.ready_nil hc) _).trans (takeException_with_hazard s _ false)
  obtain ⟨c, hi, lo, rfl⟩ | ⟨c, hi, mid, lo, rfl⟩ := hi
  · exact trap c hc
  · exact trap c hc

/-! ## The return `MOVS PC,R14` -/

section
variable {s : State}

/-- The return writes R14 into R15 with the PSR (60_exceptions R370). -/
theorem exec_movs_r14 {u : State} (rn : Reg) (hz : s.hazard = false)
    (h : s.writeR15 .statusRestoreInUser32 true (s.reg 14#4) = .ok u) :
    exec (.movReg .al true rn 15#4 0#5 .lsl 14#4) s = .next u := by
  have hs : ({ s with hazard := false } : State) = s := by rw [← hz]
  have hready : s.ready .al (rnRead .mov rn ++ [14#4]) = true := by simp [State.ready, condPassed, hz]
  refine exec_dpInstr_fifteen_of_ok (op := .mov) (o := .reg 0#5 .lsl 14#4) hready rfl ?_
  rw [hs]
  exact h

/-- Below the end of the 26-bit space no wrap is seen. -/
theorem and_26_of_lt {a : Word} (h : a.toNat < 2 ^ 26) : a &&& 0x03FFFFFF#32 = a :=
  BitVec.eq_of_toNat_eq ((and_26_toNat a).trans (Nat.mod_eq_of_lt h))

theorem and_word32_of_aligned {a : Word} (h : a.toNat % 4 = 0) : a &&& 0xFFFFFFFC#32 = a :=
  BitVec.eq_of_toNat_eq ((and_word32_toNat a).trans (by omega))

theorem and_word26_of_aligned {a : Word} (h : a.toNat % 4 = 0) : a &&& 0x03FFFFFC#32 = a &&& 0x03FFFFFF#32 :=
  BitVec.eq_of_toNat_eq (by rw [and_word26_toNat, and_26_toNat]; omega)

theorem add_four_aligned {a : Word} (h : a.toNat % 4 = 0) : (a + 4#32).toNat % 4 = 0 := by
  rw [BitVec.toNat_add, BitVec.toNat_ofNat]; omega

/-- The PSR of a 26-bit mode goes into R14 and comes back in a privileged mode (10_state R26, 60_exceptions R370). -/
theorem r15Psr_r15With {p : Psr} (h26 : s.mode26 = true) (hp : p.mode.privileged = true) (a : Word) :
    r15Psr p (s.r15With a) = s.psr := by
  obtain ⟨hn, hz, hc, hv, hi, hf⟩ := s.r15With_flags a
  simp only [r15Psr, hp, if_true, hn, hz, hc, hv, hi, hf, s.r15With_mode, Mode.ofR15_bits h26]

/-- The return from a 26-bit entry (60_exceptions R370). -/
theorem State.Entered.writeR15_26 {t : State} {e : Exc} {u : Refusal}
    (h : s.Entered e (e.mode false) (s.r15With (s.pc + 4#32)) t) (h26 : s.mode26 = true) (hpc : s.pc.toNat % 4 = 0) :
    t.writeR15 u true (t.reg 14#4) = .ok { t with pc := s.successor, psr := s.psr } := by
  have ht26 : t.mode26 = true := by rw [State.mode26, h.psr, e.mode_is26]
  have hp : t.psr.mode.privileged = true := h.privileged
  have hsucc : s.successor = (s.pc + 4#32) &&& 0x03FFFFFF#32 := if_pos h26
  rw [Machine.State.writeR15_26 ht26, h.reg, if_pos rfl, r15Psr_r15With h26 hp, s.r15With_pc,
    and_word26_of_aligned (add_four_aligned hpc), hsucc]

/-- The return from a 32-bit entry, to an address in the space of the mode (60_exceptions R370). -/
theorem State.Entered.writeR15_32 {t : State} {e : Exc} {u : Refusal}
    (h : s.Entered e (e.mode true) (s.pc + 4#32) t) (hspsrs : t.spsrs = s.spsrs.write (e.bank true) s.psr.save)
    (hpc : s.pc.toNat % 4 = 0) (hrange : s.mode26 = true → (s.pc + 4#32).toNat < 2 ^ 26) :
    t.writeR15 u true (t.reg 14#4) = .ok { t with pc := s.successor, psr := s.psr } := by
  have ht32 : t.mode26 = false := by rw [State.mode26, h.psr, e.mode_is32]
  have hbank : t.psr.mode.bank = some (e.bank true) := by rw [h.psr, e.bank_mode]
  have hread : t.spsrs.read (e.bank true) = s.psr.save := by rw [hspsrs, Spsrs.read_write_same]
  have hmode : Mode.ofBits (t.spsrs.read (e.bank true)).m = some s.psr.mode := by
    rw [hread]; exact Mode.ofBits_bits _
  have hsucc : s.successor = s.pc + 4#32 := by
    unfold State.successor
    split
    · next h26 => exact and_26_of_lt (hrange h26)
    · rfl
  rw [State.writeR15_32_restore ht32 hbank hmode, h.reg, and_word32_of_aligned (add_four_aligned hpc), hsucc, hread,
    if_neg fun ⟨h26, hle⟩ => (hrange h26).not_ge hle]
  rfl

end

end Sys2Proof.Machine

open Sys2Proof.Machine in
/-- Settles O16: the step asks for the inputs in this order. -/
theorem inputPriority : Obligations.InputPriority := fun _ =>
  ⟨step_of_reset, step_of_fiq, step_of_irq, fun hr hf hi => step_undisturbed (State.undisturbed_of_masked hr hf hi)⟩

open Sys2Proof.Machine in
/-- Settles O17: the reset event writes these fields and leaves memory and the configuration. -/
theorem resetEventState : Obligations.ResetEventState := fun s h =>
  ⟨resetEvent s.sampled, step_of_reset h, rfl, rfl, rfl, rfl, sameBytes_of_mem (by simp) (by simp), by simp, by simp,
    by simp⟩

/-- Settles O19: the two tables, entry by entry. -/
theorem exceptionTable : Obligations.ExceptionTable := ⟨rfl, rfl⟩

open Sys2Proof.Machine in
/-- Settles O20: entry writes R14, one SPSR, the PSR and `pc`. -/
theorem entryInto32BitModes : Obligations.EntryInto32BitModes := by
  intro e s h32
  obtain ⟨t, ht, h, hspsrs⟩ := takeException_entered32 e h32
  refine ⟨t, ht, h.psr, h.reg, fun p => h.other, ⟨e.bank true, e.bank_mode true, ?saved, fun b hb => ?other⟩, h.pc,
    h.bytes, h.cfg, h.cps, h.inputs⟩
  case saved => rw [hspsrs, Spsrs.read_write_same]
  case other => rw [hspsrs, Spsrs.read_write_other _ hb]

open Sys2Proof.Machine in
/-- Settles O21: the link is R15 as the mode before holds it, with the return address. -/
theorem entryInto26BitModes : Obligations.EntryInto26BitModes := by
  intro e s h32
  refine ⟨takeException_refused h32, fun h26 => ?_⟩
  obtain ⟨t, ht, h, hspsrs⟩ := takeException_entered26 e h32 h26
  obtain ⟨hn, hz, hc, hv, hi, hf⟩ := s.r15With_flags (s.pc + e.returnOffset)
  refine ⟨t, ht, h.psr, ?link, fun p => h.other, ⟨e.bank false, e.bank_mode false, fun b hb => ?other⟩, h.pc, h.bytes,
    h.cfg, h.cps, h.inputs⟩
  case link =>
    rw [h.reg]
    exact ⟨hn, hz, hc, hv, hi, hf, s.r15With_address _,
      (congrArg Mode.ofR15 (s.r15With_mode _)).trans (Mode.ofR15_bits h26)⟩
  case other =>
    rw [hspsrs]
    split
    · next hpart => exact Spsrs.read_write_other _ (hb.resolve_right (by simp [hpart])) _
    · rfl

open Sys2Proof.Machine in
/-- Settles O24: the instruction is the entry of its exception, and R14 of the mode entered is one register. -/
theorem undefinedInstructionEntry : Obligations.UndefinedInstructionEntry := by
  intro i s hi hc
  rw [exec_undefined_of_condPassed hi hc]
  refine ⟨fun h32 => ?entry32, fun h32 h26 => ?entry26, takeException_refused⟩
  case entry32 =>
    obtain ⟨t, ht, h, hspsrs⟩ := takeException_entered32 .undefinedInstruction h32
    exact ⟨t, ht, by rw [hspsrs]; rfl, h.link rfl, by simpa [Exc.mode] using h.psr, h.pc,
      fun p hp => h.other fun he => hp (Option.some.inj he).symm, h.bytes⟩
  case entry26 =>
    obtain ⟨t, ht, h, -⟩ := takeException_entered26 .undefinedInstruction h32 h26
    exact ⟨t, ht, h.link rfl, by simpa [Exc.mode] using h.psr, h.pc,
      fun p hp => h.other fun he => hp (Option.some.inj he).symm, h.bytes⟩

open Sys2Proof.Machine in
/-- Settles O22: what entry puts into R14 (and the SPSR) is what the return takes from there. -/
theorem swiThenReturn : Obligations.SwiThenReturn := by
  intro c k rn s hc hfits hrange h26
  obtain ⟨hpc, -⟩ := (State.pcFits_iff s).1 hfits
  rw [exec_swi_of_condPassed k hc]
  cases h32 : s.cfg.entry32 with
  | true =>
    have hlt : s.mode26 = true → (s.pc + 4#32).toNat < 2 ^ 26 := fun h26 => by
      rw [BitVec.toNat_add]
      exact (Nat.mod_le _ _).trans_lt (hrange h32 h26)
    obtain ⟨t, ht, h, hspsrs⟩ := takeException_entered32 .softwareInterrupt h32
    exact ⟨t, _, ht, exec_movs_r14 rn h.hazard (h.writeR15_32 hspsrs hpc hlt), h.privileged, rfl, rfl,
      fun _ => h.other_svc, h.bytes, h.cfg, h.cps⟩
  | false =>
    obtain ⟨t, ht, h, -⟩ := takeException_entered26 .softwareInterrupt h32 (h26 h32)
    exact ⟨t, _, ht, exec_movs_r14 rn h.hazard (h.writeR15_26 (h26 h32) hpc), h.privileged, rfl, rfl,
      fun _ => h.other_svc, h.bytes, h.cfg, h.cps⟩
end

section
/-!
PROOF. The status register transfers (49_status_register_transfer R330 to R332): the word that MRS reads, the fields
that MSR writes, and what both answer when they are ready.
-/

namespace Sys2Proof.Machine

section
variable {c : Cond} {spsr : Bool} {rd rm : Reg} {a : PsrField} {v : Word} {m : Mode} {b : ExcBank} {s : State}

/-! ## The word that MRS reads -/

/-- A saved PSR in the layout of 10_state R34: the bits that are state. -/
theorem SavedPsr.word_bits (q : SavedPsr) (x : Word) :
    (q.word x).getLsbD 31 = q.n ∧ (q.word x).getLsbD 30 = q.z ∧ (q.word x).getLsbD 29 = q.c ∧
    (q.word x).getLsbD 28 = q.v ∧ (q.word x).getLsbD 7 = q.i ∧ (q.word x).getLsbD 6 = q.f ∧
    (q.word x).extractLsb' 0 5 = q.m := by
  refine ⟨?_, ?_, ?_, ?_, ?_, ?_, BitVec.extractLsb'_append_eq_right⟩ <;>
    simp only [SavedPsr.word, BitVec.getLsbD_append] <;> simp

/-- The PSR that MRS reads: none when it is the SPSR of a user mode (49_status R330). -/
def State.statusOf (s : State) (spsr : Bool) : Option SavedPsr := if spsr then s.spsr else some s.psr.save

theorem State.statusOf_user (hu : s.privileged = false) : s.statusOf true = none := by
  simp [State.statusOf, State.spsr, Mode.bank_of_not_privileged hu]

theorem Mode.exists_bank (h : m.privileged = true) : ∃ b, m.bank = some b := by
  revert h
  cases m <;> simp [Mode.bank, Mode.privileged, Mode.bits]

/-- The state after MRS of `q` (49_status R331). -/
def State.statusRead (s : State) (rd : Reg) (q : SavedPsr) : State :=
  ((({ s with hazard := false } : State).drawn 1).setReg rd (q.word (Config.freeWord s.draws))).advance

theorem exec_mrs_ready (hs : s.ready c [rd] = true) : exec (.mrs c spsr rd) s =
    if rd = 15#4 then .refused .mrsRdR15
    else (s.statusOf spsr).elim (.refused .spsrInUserMode) fun q => .next (s.statusRead rd q) := by
  refine (instruction_ready hs _).trans (if_congr Iff.rfl rfl ?_)
  dsimp only
  split
  · next h => rw [show s.statusOf spsr = none from h]; rfl
  · next q h => rw [show s.statusOf spsr = some q from h]; rfl

theorem State.reg_statusRead (s : State) (q : SavedPsr) (h : rd ≠ 15#4) :
    (s.statusRead rd q).reg rd = q.word (Config.freeWord s.draws) := by
  rw [State.statusRead, State.reg_advance _ _ h, State.reg_setReg_same _ _ _ h]

/-- MRS writes Rd and no other part of the state. -/
theorem State.statusRead_frame (s : State) (rd : Reg) (q : SavedPsr) :
    let t := s.statusRead rd q
    onlyRegs s t [rd] ∧ t.psr = s.psr ∧ t.pc = s.successor ∧ t.hazard = false ∧ sameSystem s t ∧ sameBytes s t :=
  ⟨State.onlyRegs_setReg (({ s with hazard := false } : State).drawn 1) rd _, by simp [State.statusRead],
    State.successor_congr (by simp) (by simp), by simp [State.statusRead], by simp [State.statusRead, sameSystem],
    by simp [State.statusRead, sameBytes, State.byte]⟩

/-! ## The fields that MSR writes -/

/-- The PSR with its flags from the word, if the field selects them (49_status R332). -/
def Psr.takeFlags (p : Psr) (a : PsrField) (v : Word) : Psr :=
  if a = .ctl then p
  else { p with n := v.getLsbD 31, z := v.getLsbD 30, c := v.getLsbD 29, v := v.getLsbD 28 }

theorem Psr.takeFlags_eq (p : Psr) (a : PsrField) (v : Word) :
    (if a.flags then p.withTopFlags v else p) = p.takeFlags a v := by
  cases a <;> rfl

theorem Psr.takeFlags_mode (p : Psr) (a : PsrField) (v : Word) : (p.takeFlags a v).mode = p.mode := by
  cases a <;> rfl

theorem PsrField.control_eq_true (h : a ≠ .flg) : a.control = true := by
  cases a with
  | ctl | all => rfl
  | flg => exact absurd rfl h

theorem State.writeCpsr_flags (h : s.privileged = false ∨ a = .flg) :
    s.writeCpsr a v = .ok { s with psr := s.psr.takeFlags a v } := by
  have hcontrol : (a.control && s.privileged) = false := by
    rcases h with h | rfl
    · rw [h, Bool.and_false]
    · rfl
  simp only [State.writeCpsr, Psr.takeFlags_eq, hcontrol]
  rfl

/-- A mode number outside the table (10_state R37). -/
theorem State.writeCpsr_undefined (hp : s.privileged = true) (ha : a ≠ .flg)
    (hm : Mode.ofBits (v.extractLsb' 0 5) = none) : s.writeCpsr a v = .error (.fault .undefinedMode) := by
  simp only [State.writeCpsr, PsrField.control_eq_true ha, hp, field, hm]
  rfl

theorem State.writeCpsr_mode (hp : s.privileged = true) (ha : a ≠ .flg)
    (hm : Mode.ofBits (v.extractLsb' 0 5) = some m) : s.writeCpsr a v =
      if s.mode26 = false ∧ m.is26 = true ∧ 2 ^ 26 ≤ (s.pc + 4#32).toNat then .error (.refuse .pcOutOf26BitRange)
      else .ok { s with psr := { s.psr.takeFlags a v with i := v.getLsbD 7, f := v.getLsbD 6, mode := m } } := by
  simp only [State.writeCpsr, Psr.takeFlags_eq, PsrField.control_eq_true ha, hp, field, hm, Bool.and_self, if_true,
    Bool.and_eq_true, Bool.not_eq_true', decide_eq_true_eq, and_assoc]

theorem State.writeSpsr_user (hu : s.privileged = false) : s.writeSpsr a v = .error (.refuse .spsrInUserMode) := by
  simp only [State.writeSpsr, Mode.bank_of_not_privileged hu]

theorem State.writeSpsr_bank (hb : s.psr.mode.bank = some b) :
    s.writeSpsr a v = .ok { s with spsrs := s.spsrs.write b ((s.spsrs.read b).write a v) } := by
  simp only [State.writeSpsr, hb]

/-- Each field of a saved PSR is the word's or as it was (49_status R332). -/
theorem SavedPsr.write_fields (q : SavedPsr) (a : PsrField) (w : Word) :
    let x := q.write a w
    (a = .ctl → x.n = q.n ∧ x.z = q.z ∧ x.c = q.c ∧ x.v = q.v) ∧
    (a ≠ .ctl → x.n = w.getLsbD 31 ∧ x.z = w.getLsbD 30 ∧ x.c = w.getLsbD 29 ∧ x.v = w.getLsbD 28) ∧
    (a = .flg → x.i = q.i ∧ x.f = q.f ∧ x.m = q.m) ∧
    (a ≠ .flg → x.i = w.getLsbD 7 ∧ x.f = w.getLsbD 6 ∧ x.m = w.extractLsb' 0 5) := by
  cases a <;> simp [SavedPsr.write, SavedPsr.ofWord, PsrField.flags, PsrField.control, field]

/-! ## What MSR answers when it is ready -/

/-- The rotation of an immediate does not look at the carry (41_data_processing R158). -/
theorem immOperand_value_of_carry (rot : BitVec 4) (imm : BitVec 8) (c d : Bool) :
    (immOperand rot imm c).value = (immOperand rot imm d).value := by
  rw [immOperand, immOperand, shiftRor_value, shiftRor_value]

theorem exec_msrReg_fifteen (hc : condPassed c s.psr = true) :
    exec (.msrReg c spsr a 15#4) s = .refused .msrRmR15 :=
  instruction_ready (State.ready_fifteen (State.ready_nil hc)) _

theorem exec_msrReg_ready (hs : s.ready c [rm] = true) (hrm : rm ≠ 15#4) :
    exec (.msrReg c spsr a rm) s = ({ s with hazard := false } : State).msr spsr a (s.reg rm) :=
  (instruction_ready hs _).trans (if_neg hrm)

theorem exec_msrImm_ready (hc : condPassed c s.psr = true) (rot : BitVec 4) (imm : BitVec 8) :
    exec (.msrImm c spsr a rot imm) s =
      ({ s with hazard := false } : State).msr spsr a (immOperand rot imm false).value := by
  rw [immOperand_value_of_carry rot imm false s.psr.c]
  exact instruction_ready (State.ready_nil hc) _

/-- The next instruction is the one after, in the mode just written (49_status R332). -/
theorem State.msr_cpsr_of_ok {t : State} (h : s.writeCpsr a v = .ok t) : s.msr false a v = .next t.advance := by
  rw [State.msr, if_neg Bool.false_ne_true, h, andThen]

theorem State.msr_cpsr_of_error {e : Stop} (h : s.writeCpsr a v = .error e) : s.msr false a v = stopWith s e := by
  rw [State.msr, if_neg Bool.false_ne_true, h, andThen]

theorem State.msr_spsr_of_ok {t : State} (h : s.writeSpsr a v = .ok t) : s.msr true a v = .next t.advance := by
  rw [State.msr, if_pos rfl, h, andThen]

theorem State.msr_spsr_of_error {e : Stop} (h : s.writeSpsr a v = .error e) : s.msr true a v = stopWith s e := by
  rw [State.msr, if_pos rfl, h, andThen]

/-- The flags alone leave the mode, and with it the successor of `pc`. -/
theorem State.advance_takeFlags (s : State) (a : PsrField) (v : Word) :
    ({ s with psr := s.psr.takeFlags a v } : State).advance =
      { s with psr := s.psr.takeFlags a v, pc := s.successor } := by
  have hsucc : ({ s with psr := s.psr.takeFlags a v } : State).successor = s.successor :=
    State.successor_congr (s.psr.takeFlags_mode a v) rfl
  rw [State.advance, hsucc]

end

end Sys2Proof.Machine

open Sys2Proof.Machine in
/-- Settles O56: Rd takes the word of the PSR, whose other bits are free. -/
theorem statusToRegister : Obligations.StatusToRegister := by
  intro c spsr rd s hs
  rw [exec_mrs_ready hs]
  refine ⟨fun hrd => if_pos hrd, fun hrd hspsr hu => ?user, fun hrd hp => ?read⟩
  case user => rw [if_neg hrd, hspsr, State.statusOf_user hu, Option.elim_none]
  case read =>
    have hq : ∃ q, s.statusOf spsr = some q ∧ (spsr = false → q = s.psr.save) ∧
        (spsr = true → ∃ b, s.psr.mode.bank = some b ∧ q = s.spsrs.read b) := by
      cases spsr with
      | false => exact ⟨_, rfl, fun _ => rfl, by simp⟩
      | true =>
        obtain ⟨b, hb⟩ := Mode.exists_bank (hp rfl)
        exact ⟨s.spsrs.read b, by simp [State.statusOf, State.spsr, hb], by simp, fun _ => ⟨b, hb, rfl⟩⟩
    obtain ⟨q, hstatus, hq⟩ := hq
    obtain ⟨hregs, hpsr, hpc, hhazard, hsystem, hbytes⟩ := s.statusRead_frame rd q
    rw [if_neg hrd, hstatus, Option.elim_some]
    refine ⟨_, rfl, hregs, hpsr, hpc, hhazard, hsystem, hbytes, q, hq.1, hq.2, ?_⟩
    rw [s.reg_statusRead q hrd]
    exact q.word_bits _

open Sys2Proof.Machine in
/-- Settles O57: both forms are one operation on a word, which writes the CPSR or the SPSR by fields. -/
theorem registerToStatus : Obligations.RegisterToStatus := by
  refine ⟨fun _ _ _ _ => exec_msrReg_fifteen, ?_⟩
  intro c a i spsr v s hi flagged mode
  let s₀ : State := { s with hazard := false }
  have hexec : exec i s = s₀.msr spsr a v := by
    rcases hi with ⟨rm, rfl, hrm, rfl, hs⟩ | ⟨rot, imm, rfl, rfl, hc⟩
    · exact exec_msrReg_ready hs hrm
    · exact exec_msrImm_ready hc rot imm
  rw [hexec]
  refine ⟨?flags, ?undefined, ?control, ?user, ?saved⟩
  case flags =>
    rintro rfl h
    rw [State.msr_cpsr_of_ok (State.writeCpsr_flags (s := s₀) h), State.advance_takeFlags]
    rfl
  case undefined =>
    rintro rfl hp ha hm
    exact State.msr_cpsr_of_error (State.writeCpsr_undefined (s := s₀) hp ha hm)
  case control =>
    rintro rfl hp ha m hm
    have hwrite := State.writeCpsr_mode (s := s₀) hp ha hm
    exact ⟨fun hpc => State.msr_cpsr_of_error (hwrite.trans (if_pos hpc)),
      fun hpc => State.msr_cpsr_of_ok (hwrite.trans (if_neg hpc))⟩
  case user =>
    rintro rfl hu
    exact State.msr_spsr_of_error (State.writeSpsr_user (s := s₀) hu)
  case saved =>
    rintro rfl b hb
    refine ⟨_, State.msr_spsr_of_ok (State.writeSpsr_bank (s := s₀) hb), rfl,
      fun b' hne => Spsrs.read_write_other s.spsrs hne _, ?_⟩
    rw [State.advance_spsrs, Spsrs.read_write_same]
    exact SavedPsr.write_fields (s.spsrs.read b) a v
end

section
/-!
PROOF. Single data swap (48_swap R320): the state that an exchange leaves, and what SWP and SWPB answer when they are
ready.
-/

namespace Sys2Proof.Machine

section
variable {z : Size} {c : Cond} {rn rd rm : Reg} {e : Stop} {s : State}

/-! ## The state after an exchange -/

/-- The state after SWP and SWPB: Rm in memory at Rn, and in Rd what memory held there (48_swap R320). -/
def State.swapped (s : State) (z : Size) (rn rd rm : Reg) : State :=
  ((({ s with hazard := false } : State).put z (s.reg rn) (s.reg rm)).setReg rd (s.value z (s.reg rn))).advance

theorem State.reg_swapped (s : State) (z : Size) (rn rm : Reg) (h : rd ≠ 15#4) :
    (s.swapped z rn rd rm).reg rd = s.value z (s.reg rn) := by
  rw [State.swapped, State.reg_advance _ _ h, State.reg_setReg_same _ _ _ h]

theorem State.byte_swapped (s : State) (z : Size) (rn rd rm : Reg) (b : Nat) :
    (s.swapped z rn rd rm).byte b = (s.put z (s.reg rn) (s.reg rm)).byte b := by
  simp [State.swapped, State.byte]

/-- An exchange changes Rd, memory and `pc`. -/
theorem State.swapped_frame (s : State) (z : Size) (rn rd rm : Reg) :
    let t := s.swapped z rn rd rm
    onlyRegs s t [rd] ∧ t.psr = s.psr ∧ t.pc = s.successor ∧ t.hazard = false ∧ sameSystem s t :=
  ⟨State.onlyRegs_setReg (({ s with hazard := false } : State).put z (s.reg rn) (s.reg rm)) rd _,
    by simp [State.swapped], State.successor_congr (by simp) (by simp), by simp [State.swapped],
    by simp [State.swapped, sameSystem]⟩

/-! ## What the instructions answer when they are ready -/

/-- The privilege of an access that is not one of a T form (20_memory R76). -/
theorem privileged_plain (s : State) : (({ s with hazard := false } : State).privileged && !false) = s.privileged :=
  Bool.and_true _

theorem swap_fifteen (hs : s.ready c [rn, rd, rm] = true) (h : 15#4 ∈ [rd, rn, rm]) :
    swap z c rn rd rm s = .refused .swpWithR15 :=
  (instruction_ready hs _).trans (if_pos h)

theorem swap_unaligned (hs : s.ready c [rn, rd, rm] = true) (h : 15#4 ∉ [rd, rn, rm])
    (hf : z.fits (s.reg rn) = false) : swap z c rn rd rm s = .refused .unalignedAccess :=
  (instruction_ready hs _).trans <| (if_neg h).trans <| if_pos <| by simpa using hf

/-- The operands that 48_swap R320 admits: the value is read before it is stored over. -/
theorem swap_admitted (hs : s.ready c [rn, rd, rm] = true) (h : 15#4 ∉ [rd, rn, rm])
    (hf : z.fits (s.reg rn) = true) : swap z c rn rd rm s =
      (let t : State := { s with hazard := false }
       andThen t (t.load z false (s.reg rn)) fun old =>
         andThen t (t.store z false (s.reg rn) (s.reg rm)) fun u => .next (u.setReg rd old).advance) :=
  (instruction_ready hs _).trans <| (if_neg h).trans <| if_neg <| by simpa using hf

theorem swap_result (hs : s.ready c [rn, rd, rm] = true) (h : 15#4 ∉ [rd, rn, rm]) (hf : z.fits (s.reg rn) = true)
    (hread : s.access z .read s.privileged (s.reg rn) = none)
    (hwrite : s.access z .write s.privileged (s.reg rn) = none) :
    swap z c rn rd rm s = .next (s.swapped z rn rd rm) := by
  rw [swap_admitted hs h hf]
  dsimp only
  rw [State.load_of_access (by rw [privileged_plain]; exact hread), andThen,
    State.store_of_access (by rw [privileged_plain]; exact hwrite), andThen]
  rfl

/-- Either access, when it is stopped, stops the exchange with nothing written (60_exceptions R356). -/
theorem swap_stopped (hs : s.ready c [rn, rd, rm] = true) (h : 15#4 ∉ [rd, rn, rm]) (hf : z.fits (s.reg rn) = true)
    (he : s.access z .read s.privileged (s.reg rn) = some e ∨
      (s.access z .read s.privileged (s.reg rn) = none ∧ s.access z .write s.privileged (s.reg rn) = some e)) :
    swap z c rn rd rm s = stopWith { s with hazard := false } e := by
  rw [swap_admitted hs h hf]
  dsimp only
  rcases he with he | ⟨hread, he⟩
  · rw [State.load_of_stopped (by rw [privileged_plain]; exact he), andThen]
  · rw [State.load_of_access (by rw [privileged_plain]; exact hread), andThen,
      State.store_of_stopped (by rw [privileged_plain]; exact he), andThen]

end

end Sys2Proof.Machine

open Sys2Proof.Machine in
/-- Settles O55: SWP and SWPB are one operation by width, a load and a store at one address, then Rd. -/
theorem swapResult : Obligations.SwapResult := by
  intro z c rn rd rm s hs i addr
  have hexec : exec i s = swap z c rn rd rm s := by cases z <;> rfl
  have hnames : 15#4 ∈ [rn, rd, rm] ↔ 15#4 ∈ [rd, rn, rm] := (List.Perm.swap rd rn [rm]).mem_iff
  rw [hexec, hnames]
  refine ⟨swap_fifteen hs, swap_unaligned hs, fun h15 hf hm hread hwrite => ?result, fun h15 hf x hx => ?stopped⟩
  case result =>
    have hrd : rd ≠ 15#4 := fun h => h15 (by simp [h])
    have hbyte := s.byte_swapped z rn rd rm
    refine ⟨_, swap_result hs h15 hf hread hwrite, ?value,
      fun b hb => (hbyte b).trans (s.byte_put z addr (s.reg rm) b hm hb), s.swapped_frame z rn rd rm⟩
    cases z with
    | word =>
      exact ⟨s.reg_swapped .word rn rm hrd,
        (State.wordAt_congr addr fun b _ _ => hbyte b).trans (s.wordAt_put addr (s.reg rm) hm)⟩
    | byte => exact ⟨s.reg_swapped .byte rn rm hrd, (hbyte addr.toNat).trans (s.byte_put_byte addr (s.reg rm) hm)⟩
  case stopped =>
    refine swap_stopped hs h15 hf (hx.imp (State.access_eq_some (by decide)).2 fun ⟨hread, hx⟩ => ⟨hread, ?_⟩)
    exact (State.access_eq_some (by decide)).2 hx
end

section
/-!
PROOF. The coprocessor instructions (47_coprocessor R300 to R308): the trap without a coprocessor that responds, the
words of LDC and STC at their addresses, the state that a transfer leaves, and what each instruction answers.
-/

namespace Sys2Proof.Machine

section
variable {c : Cond} {i : Instr} {cp : BitVec 4} {k : Coproc} {rs : List Reg} {s : State}

/-! ## The coprocessor that responds, or not -/

theorem conditional_passed (h : condPassed c s.psr = true) (body : State → Answer) : conditional c s body = body s :=
  if_pos h

theorem State.ready_condPassed (h : s.ready c rs = true) : condPassed c s.psr = true :=
  (Bool.and_eq_true_iff.1 h).1

/-- No coprocessor responds: the trap is taken before the hazard is looked at (47_coprocessor R301, log 16). -/
theorem withCoproc_absent (h : ∀ k, s.coproc cp = some k → k.responds (lowBits i) = false)
    (body : Coproc → State → Answer) : withCoproc i cp rs s body = takeException .undefinedInstruction s := by
  unfold withCoproc
  split
  · rfl
  · next k hk => exact if_neg (by simp [h k hk])

theorem withCoproc_responds (hk : s.coproc cp = some k) (hr : k.responds (lowBits i) = true)
    (body : Coproc → State → Answer) : withCoproc i cp rs s body = guardBanked (anyBanked rs) s (body k) := by
  simp only [withCoproc, hk]
  exact if_pos hr

/-- A coprocessor that responds leaves the instruction to its own rule, run with the hazard cleared. -/
theorem withCoproc_ready (hs : s.ready c rs = true) (hk : s.coproc cp = some k)
    (hr : k.responds (lowBits i) = true) (body : Coproc → State → Answer) :
    withCoproc i cp rs s body = body k { s with hazard := false } :=
  (withCoproc_responds hk hr body).trans <| if_neg <| by
    simpa [or_iff_not_imp_left] using (Bool.and_eq_true_iff.1 hs).2

theorem conditional_withCoproc_ready (hs : s.ready c rs = true) (hk : s.coproc cp = some k)
    (hr : k.responds (lowBits i) = true) (body : Coproc → State → Answer) :
    conditional c s (fun s => withCoproc i cp rs s body) = body k { s with hazard := false } :=
  (conditional_passed (State.ready_condPassed hs) _).trans (withCoproc_ready hs hk hr body)

theorem conditional_withCoproc_absent (hc : condPassed c s.psr = true)
    (h : ∀ k, s.coproc cp = some k → k.responds (lowBits i) = false) (body : Coproc → State → Answer) :
    conditional c s (fun s => withCoproc i cp rs s body) = takeException .undefinedInstruction s :=
  (conditional_passed hc _).trans (withCoproc_absent h body)

/-! ## CDP, MCR and MRC -/

section
variable {op q : BitVec 3} {opc crn crd crm : BitVec 4} {rd : Reg}

theorem exec_cdp_responds (hc : condPassed c s.psr = true) (hk : s.coproc cp = some k)
    (hr : k.responds (lowBits (.cdp c opc crn crd cp q crm)) = true) : exec (.cdp c opc crn crd cp q crm) s =
      .next { s.setCoproc cp (Config.cpCdp cp k (lowBits (.cdp c opc crn crd cp q crm))) with
        pc := s.successor, hazard := false } :=
  conditional_withCoproc_ready (State.ready_nil hc) hk hr _

/-- MCR looks at R15 before it looks for the coprocessor (47_coprocessor R305). -/
theorem exec_mcr_fifteen (hc : condPassed c s.psr = true) (hrd : rd = 15#4) :
    exec (.mcr c op crn rd cp q crm) s = .refused .mcrWithR15 :=
  (if_pos hc).trans (if_pos hrd)

theorem exec_mcr_absent (hc : condPassed c s.psr = true) (hrd : rd ≠ 15#4)
    (h : ∀ k, s.coproc cp = some k → k.responds (lowBits (.mcr c op crn rd cp q crm)) = false) :
    exec (.mcr c op crn rd cp q crm) s = takeException .undefinedInstruction s :=
  (if_pos hc).trans <| (if_neg hrd).trans (withCoproc_absent h _)

theorem exec_mcr_responds (hs : s.ready c [rd] = true) (hrd : rd ≠ 15#4) (hk : s.coproc cp = some k)
    (hr : k.responds (lowBits (.mcr c op crn rd cp q crm)) = true) : exec (.mcr c op crn rd cp q crm) s =
      .next { s.setCoproc cp (Config.cpMcr cp k (lowBits (.mcr c op crn rd cp q crm)) (s.reg rd)) with
        pc := s.successor, hazard := false } :=
  (if_pos (State.ready_condPassed hs)).trans <| (if_neg hrd).trans (withCoproc_ready hs hk hr _)

/-- The state after MRC of the word `v`, the coprocessor in the state `k'` (47_coprocessor R306, R308). -/
def State.cpRead (s : State) (cp : BitVec 4) (k' : Coproc) (rd : Reg) (v : Word) : State :=
  let t := ({ s with hazard := false } : State).setCoproc cp k'
  (if rd = 15#4 then { t with psr := t.psr.withTopFlags v } else t.setReg rd v).advance

theorem exec_mrc_responds (hs : s.ready c [rd] = true) (hk : s.coproc cp = some k)
    (hr : k.responds (lowBits (.mrc c op crn rd cp q crm)) = true) : exec (.mrc c op crn rd cp q crm) s =
      .next (s.cpRead cp (Config.cpMrcState cp k (lowBits (.mrc c op crn rd cp q crm))) rd
        (Config.cpMrcWord cp k (lowBits (.mrc c op crn rd cp q crm)))) :=
  conditional_withCoproc_ready hs hk hr _

/-- Beside Rd or the flags MRC changes the coprocessor and `pc` (47_coprocessor R306). -/
theorem State.cpRead_frame (s : State) (cp : BitVec 4) (k' : Coproc) (rd : Reg) (v : Word) :
    let t := s.cpRead cp k' rd v
    t.cps = (s.setCoproc cp k').cps ∧ t.pc = s.successor ∧ t.hazard = false ∧ t.cfg = s.cfg ∧ t.spsrs = s.spsrs ∧
      t.inputs = s.inputs ∧ sameBytes s t := by
  unfold State.cpRead
  split
  · exact ⟨rfl, rfl, rfl, rfl, rfl, rfl, sameBytes_of_mem rfl rfl⟩
  · exact ⟨State.setReg_cps .., State.successor_congr (by simp) (by simp), by simp, by simp, by simp, by simp,
      by simp [sameBytes, State.byte]⟩

/-- MRC into another register than R15 (47_coprocessor R306). -/
theorem State.cpRead_of_ne (s : State) (cp : BitVec 4) (k' : Coproc) (v : Word) (h : rd ≠ 15#4) :
    let t := s.cpRead cp k' rd v
    t.reg rd = v ∧ onlyRegs s t [rd] ∧ t.psr = s.psr := by
  simp only [State.cpRead, if_neg h]
  refine ⟨?_, State.onlyRegs_setReg (({ s with hazard := false } : State).setCoproc cp k') rd v, by simp⟩
  rw [State.reg_advance _ _ h, State.reg_setReg_same _ _ _ h]

end

/-! ## Words at consecutive addresses -/

/-- The `j`-th word address from `a` up (47_coprocessor R303). -/
abbrev wordFrom (a : Word) (j : Nat) : Word := a + BitVec.ofNat 32 (4 * j)

theorem wordFrom_toNat (a : Word) (j : Nat) : (wordFrom a j).toNat = (a.toNat + 4 * j) % 2 ^ 32 := by
  rw [BitVec.toNat_add, BitVec.toNat_ofNat, Nat.add_mod_mod]

/-- After 2^30 words the addresses come round again. -/
theorem wordFrom_add_round (a : Word) (j : Nat) : wordFrom a (j + 2 ^ 30) = wordFrom a j :=
  BitVec.eq_of_toNat_eq (by rw [wordFrom_toNat, wordFrom_toNat]; omega)

/-- Within one round two words do not overlap. -/
theorem wordFrom_disjoint {a : Word} (ha : Word.aligned a = true) {j n : Nat} (hjn : j < n) (hn : n < j + 2 ^ 30) :
    (wordFrom a j).toNat + 4 ≤ (wordFrom a n).toNat ∨ (wordFrom a n).toNat + 4 ≤ (wordFrom a j).toNat := by
  have ha := (Word.aligned_iff a).1 ha
  rw [wordFrom_toNat, wordFrom_toNat]
  omega

/-- The first `n` numbers around one of them. -/
theorem range_split {j n : Nat} (h : j < n) : ∃ post, List.range n = List.range j ++ j :: post := by
  obtain ⟨m, rfl⟩ := Nat.exists_eq_add_of_lt h
  refine ⟨(List.range m).map (j + 1 + ·), ?_⟩
  rw [show j + m + 1 = (j + 1) + m by omega, List.range_add, List.range_succ, List.append_assoc]
  rfl

/-- The words `g` stored at the first `n` addresses from `a` up (47_coprocessor R304). -/
def State.putWords (s : State) (a : Word) (g : Nat → Word) (n : Nat) : State :=
  (List.range n).foldl (fun t j => t.put .word (wordFrom a j) (g j)) s

section
variable {a : Word} {g : Nat → Word} {n : Nat}

theorem State.putWords_succ (s : State) (a : Word) (g : Nat → Word) (n : Nat) :
    s.putWords a g (n + 1) = (s.putWords a g n).put .word (wordFrom a n) (g n) := by
  rw [State.putWords, List.range_succ, List.foldl_append]
  rfl

theorem State.onlyMemory_putWords (s : State) (a : Word) (g : Nat → Word) (n : Nat) :
    onlyMemory s (s.putWords a g n) :=
  putAll_onlyMemory (List.range n) (wordFrom a) g s

theorem State.wf_putWords (hm : Memory.wf s.mem = true) : Memory.wf (s.putWords a g n).mem = true := by
  induction n with
  | zero => exact hm
  | succ n ih => rw [State.putWords_succ]; exact State.wf_put _ _ _ _ ih

theorem State.byte_putWords (hm : Memory.wf s.mem = true) {b : Nat}
    (hb : ∀ j < n, b < (wordFrom a j).toNat ∨ (wordFrom a j).toNat + 4 ≤ b) :
    (s.putWords a g n).byte b = s.byte b := by
  induction n with
  | zero => rfl
  | succ n ih =>
    rw [State.putWords_succ, State.byte_put _ .word _ _ _ (State.wf_putWords hm) (hb n (Nat.lt_succ_self n))]
    exact ih fun j hj => hb j (Nat.lt_succ_of_lt hj)

/-- A word reads back unless one a round later is stored over it. -/
theorem State.wordAt_putWords (hm : Memory.wf s.mem = true) (ha : Word.aligned a = true) {j : Nat} (hj : j < n)
    (hn : n ≤ j + 2 ^ 30) : (s.putWords a g n).wordAt (wordFrom a j) = g j := by
  induction n with
  | zero => omega
  | succ n ih =>
    have hwf := State.wf_putWords (a := a) (g := g) (n := n) hm
    rw [State.putWords_succ]
    rcases Nat.lt_succ_iff_lt_or_eq.1 hj with hj | rfl
    · rw [← ih hj (by omega)]
      refine State.wordAt_congr _ fun b hb hb' => State.byte_put _ .word _ _ b hwf ?_
      have hdisjoint := wordFrom_disjoint ha hj (by omega)
      rw [Size.count]
      omega
    · exact State.wordAt_put _ _ _ hwf

end

/-! ## The transfers -/

section
variable {p u n w : Bool} {rn : Reg} {crd : BitVec 4} {off : BitVec 8} {e : Stop}

@[simp] theorem State.cpAddr_with_hazard (s : State) (b p u : Bool) (rn : Reg) (off : BitVec 8) :
    ({ s with hazard := b } : State).cpAddr p u rn off = s.cpAddr p u rn off :=
  rfl

/-- The base moved to `idx`, if the form does, the coprocessor in the state `k'`, and on (47_coprocessor R303, R304). -/
def State.cpMoved (s : State) (p w : Bool) (rn : Reg) (idx : Word) (cp : BitVec 4) (k' : Coproc) : State :=
  ((s.writeBack p w rn idx).setCoproc cp k').advance

theorem State.reg_cpMoved (s : State) (idx : Word) (cp : BitVec 4) (k' : Coproc) (hw : writesBack p w = true)
    (hrn : rn ≠ 15#4) : (s.cpMoved p w rn idx cp k').reg rn = idx := by
  rw [State.cpMoved, State.reg_advance _ _ hrn]
  exact s.reg_writeBack_same idx hw hrn

/-- Beside the base, the coprocessor and `pc` nothing changes. -/
theorem State.cpMoved_frame (s : State) (p w : Bool) (rn : Reg) (idx : Word) (cp : BitVec 4) (k' : Coproc) :
    let t := s.cpMoved p w rn idx cp k'
    t.cps = (s.setCoproc cp k').cps ∧ onlyRegs s t (if writesBack p w then [rn] else []) ∧ t.psr = s.psr ∧
      t.pc = s.successor ∧ t.hazard = s.hazard ∧ t.cfg = s.cfg ∧ t.spsrs = s.spsrs ∧ t.inputs = s.inputs ∧
      t.mem = s.mem ∧ t.stored = s.stored :=
  ⟨by simp [State.cpMoved, State.setCoproc], s.onlyRegs_writeBack p w rn idx, by simp [State.cpMoved],
    State.successor_congr (by simp) (by simp), by simp [State.cpMoved], by simp [State.cpMoved],
    by simp [State.cpMoved], by simp [State.cpMoved], by simp [State.cpMoved], by simp [State.cpMoved]⟩

/-- After stores the frame is that of the state before them, memory apart. -/
theorem State.cpMoved_frame_of_onlyMemory {t : State} (h : onlyMemory s t) (p w : Bool) (rn : Reg) (idx : Word)
    (cp : BitVec 4) (k' : Coproc) :
    let u := t.cpMoved p w rn idx cp k'
    u.cps = (s.setCoproc cp k').cps ∧ onlyRegs s u (if writesBack p w then [rn] else []) ∧ u.psr = s.psr ∧
      u.pc = s.successor ∧ u.hazard = s.hazard ∧ u.cfg = s.cfg ∧ u.spsrs = s.spsrs ∧ u.inputs = s.inputs := by
  unfold onlyMemory at h
  rw [h]
  obtain ⟨hcps, hregs, hpsr, hpc, hhazard, hcfg, hspsrs, hinputs, -⟩ :=
    ({ s with mem := t.mem, stored := t.stored } : State).cpMoved_frame p w rn idx cp k'
  exact ⟨hcps, hregs, hpsr, hpc, hhazard, hcfg, hspsrs, hinputs⟩

theorem State.byte_cpMoved (s : State) (p w : Bool) (rn : Reg) (idx : Word) (cp : BitVec 4) (k' : Coproc) (b : Nat) :
    (s.cpMoved p w rn idx cp k').byte b = s.byte b := by
  simp [State.cpMoved, State.byte]

/-- A transfer that responds and is not held back by the hazard (47_coprocessor R301, 70_reset R412). -/
structure State.CpReady (s : State) (i : Instr) (c : Cond) (rn : Reg) (cp : BitVec 4) (k : Coproc) : Prop where
  ready : s.ready c [rn] = true
  coproc : s.coproc cp = some k
  responds : k.responds (lowBits i) = true

/-- The answer `body` of a transfer whose base and first address are admitted (47_coprocessor R303, 20_memory
R73). -/
def cpChecked (s : State) (p u w : Bool) (rn : Reg) (off : BitVec 8) (body : Answer) : Answer :=
  if rn = 15#4 ∧ writesBack p w then .refused .r15BaseWriteBack
  else if !Word.aligned (s.cpAddr p u rn off) then .refused .unalignedAccess
  else body

theorem ne_fifteen_of_writesBack (hbase : rn = 15#4 → writesBack p w = false) (hw : writesBack p w = true) :
    rn ≠ 15#4 := fun hrn =>
  Bool.false_ne_true ((hbase hrn).symm.trans hw)

theorem cpChecked_fifteen (hrn : rn = 15#4) (hw : writesBack p w = true) (body : Answer) :
    cpChecked s p u w rn off body = .refused .r15BaseWriteBack :=
  if_pos ⟨hrn, hw⟩

theorem cpChecked_unaligned (hbase : rn = 15#4 → writesBack p w = false)
    (ha : Word.aligned (s.cpAddr p u rn off) = false) (body : Answer) :
    cpChecked s p u w rn off body = .refused .unalignedAccess :=
  (if_neg fun ⟨hrn, hw⟩ => ne_fifteen_of_writesBack hbase hw hrn).trans <| if_pos <| by simp [ha]

theorem cpChecked_admitted (hbase : rn = 15#4 → writesBack p w = false)
    (ha : Word.aligned (s.cpAddr p u rn off) = true) (body : Answer) : cpChecked s p u w rn off body = body :=
  (if_neg fun ⟨hrn, hw⟩ => ne_fifteen_of_writesBack hbase hw hrn).trans <| if_neg <| by simp [ha]

theorem exec_ldc_responds (h : s.CpReady (.ldc c p u n w rn crd cp off) c rn cp k) :
    exec (.ldc c p u n w rn crd cp off) s = cpChecked s p u w rn off
      (let s₀ : State := { s with hazard := false }
       let instr := lowBits (.ldc c p u n w rn crd cp off)
       andThen s₀ (s₀.loadAll (wordAddrs (s.cpAddr p u rn off) (Config.cpLdcMore cp k instr + 1))) fun ws =>
         .next (s₀.cpMoved p w rn (s.cpIndex u rn off) cp (Config.cpLdc cp k instr ws))) :=
  conditional_withCoproc_ready h.ready h.coproc h.responds _

/-- Words that can all be read. -/
theorem State.loadAll_words {a : Word} {count : Nat}
    (h : ∀ j < count, s.access .word .read s.privileged (wordFrom a j) = none) :
    s.loadAll (wordAddrs a count) = .ok ((List.range count).map fun j => s.wordAt (wordFrom a j)) := by
  rw [wordAddrs_eq, State.loadAll_of_access, List.map_map]
  · rfl
  · exact List.forall_mem_map.2 fun j hj => h j (List.mem_range.1 hj)

/-- The first word whose read is stopped. -/
theorem State.loadAll_words_stopped {a : Word} {count j : Nat} (hj : j < count)
    (h : ∀ m < j, s.access .word .read s.privileged (wordFrom a m) = none)
    (he : s.access .word .read s.privileged (wordFrom a j) = some e) :
    s.loadAll (wordAddrs a count) = .error e := by
  obtain ⟨post, hsplit⟩ := range_split hj
  rw [wordAddrs_eq, hsplit, List.map_append, List.map_cons]
  exact State.loadAll_stops _ _ _ e (List.forall_mem_map.2 fun m hm => h m (List.mem_range.1 hm)) he

/-- What STC hands to memory: each word of the coprocessor with its address. -/
theorem stcStores_eq (a : Word) (g : Nat → Word) (count : Nat) :
    (wordAddrs a count).zip ((List.range count).map g) = (List.range count).map fun j => (wordFrom a j, g j) := by
  rw [wordAddrs_eq, zip_map_map]

theorem exec_stc_responds (h : s.CpReady (.stc c p u n w rn crd cp off) c rn cp k) :
    exec (.stc c p u n w rn crd cp off) s = cpChecked s p u w rn off
      (let instr := lowBits (.stc c p u n w rn crd cp off)
       let r := ({ s with hazard := false } : State).storeAll ((List.range (Config.cpStcMore cp k instr + 1)).map
         fun j => (wordFrom (s.cpAddr p u rn off) j, Config.cpStcWord cp k instr j))
       r.2.elim (.next (r.1.cpMoved p w rn (s.cpIndex u rn off) cp (Config.cpStcState cp k instr)))
         (stopWith r.1)) := by
  refine (conditional_withCoproc_ready h.ready h.coproc h.responds _).trans
    (if_congr Iff.rfl rfl (if_congr Iff.rfl rfl ?_))
  dsimp only
  rw [stcStores_eq, State.cpAddr_with_hazard]
  generalize ({ s with hazard := false } : State).storeAll _ = r
  obtain ⟨t, stop⟩ := r
  cases stop <;> rfl

/-- Words that can all be stored. -/
theorem State.storeAll_words {a : Word} {g : Nat → Word} {count : Nat}
    (h : ∀ j < count, s.access .word .write s.privileged (wordFrom a j) = none) :
    s.storeAll ((List.range count).map fun j => (wordFrom a j, g j)) = (s.putWords a g count, none) := by
  rw [State.storeAll_of_access _ _ (List.forall_mem_map.2 fun j hj => h j (List.mem_range.1 hj)), List.foldl_map]
  rfl

/-- The first word whose store is stopped leaves those before it stored. -/
theorem State.storeAll_words_stopped {a : Word} {g : Nat → Word} {count j : Nat} (hj : j < count)
    (h : ∀ m < j, s.access .word .write s.privileged (wordFrom a m) = none)
    (he : s.access .word .write s.privileged (wordFrom a j) = some e) :
    s.storeAll ((List.range count).map fun j => (wordFrom a j, g j)) = (s.putWords a g j, some e) := by
  obtain ⟨post, hsplit⟩ := range_split hj
  rw [hsplit, List.map_append, List.map_cons,
    State.storeAll_stops _ _ _ e (List.forall_mem_map.2 fun m hm => h m (List.mem_range.1 hm)) he, List.foldl_map]
  rfl

/-- The first word that is stopped is in the first round of addresses: a later round has the same words. -/
theorem first_stopped_lt {a : Word} {kind : AccessKind} {j : Nat}
    (h : ∀ m < j, s.access .word kind s.privileged (wordFrom a m) = none)
    (he : s.access .word kind s.privileged (wordFrom a j) = some e) : j < 2 ^ 30 := by
  refine Nat.lt_of_not_le fun hle => ?_
  obtain ⟨m, rfl⟩ := Nat.exists_eq_add_of_le' hle
  rw [wordFrom_add_round, h m (by omega)] at he
  cases he

/-! ## What the transfers answer when they are admitted -/

/-- The base and the first address are admitted (47_coprocessor R303, 20_memory R73). -/
structure State.CpAdmitted (s : State) (p u w : Bool) (rn : Reg) (off : BitVec 8) : Prop where
  base : rn = 15#4 → writesBack p w = false
  aligned : Word.aligned (s.cpAddr p u rn off) = true

theorem exec_ldc_result (h : s.CpReady (.ldc c p u n w rn crd cp off) c rn cp k) (ha : s.CpAdmitted p u w rn off)
    (hacc : ∀ j < Config.cpLdcMore cp k (lowBits (.ldc c p u n w rn crd cp off)) + 1,
      s.access .word .read s.privileged (wordFrom (s.cpAddr p u rn off) j) = none) :
    exec (.ldc c p u n w rn crd cp off) s =
      (let instr := lowBits (.ldc c p u n w rn crd cp off)
       .next (({ s with hazard := false } : State).cpMoved p w rn (s.cpIndex u rn off) cp
         (Config.cpLdc cp k instr ((List.range (Config.cpLdcMore cp k instr + 1)).map fun j =>
           s.wordAt (wordFrom (s.cpAddr p u rn off) j))))) := by
  rw [exec_ldc_responds h, cpChecked_admitted ha.base ha.aligned]
  dsimp only
  rw [State.loadAll_words (s := { s with hazard := false }) hacc]
  rfl

theorem exec_ldc_stopped (h : s.CpReady (.ldc c p u n w rn crd cp off) c rn cp k) (ha : s.CpAdmitted p u w rn off)
    {j : Nat} (hj : j < Config.cpLdcMore cp k (lowBits (.ldc c p u n w rn crd cp off)) + 1)
    (hbefore : ∀ m < j, s.access .word .read s.privileged (wordFrom (s.cpAddr p u rn off) m) = none)
    (he : s.access .word .read s.privileged (wordFrom (s.cpAddr p u rn off) j) = some e) :
    exec (.ldc c p u n w rn crd cp off) s = stopWith { s with hazard := false } e := by
  rw [exec_ldc_responds h, cpChecked_admitted ha.base ha.aligned]
  dsimp only
  rw [State.loadAll_words_stopped (s := { s with hazard := false }) hj hbefore he, andThen]

theorem exec_stc_result (h : s.CpReady (.stc c p u n w rn crd cp off) c rn cp k) (ha : s.CpAdmitted p u w rn off)
    (hacc : ∀ j < Config.cpStcMore cp k (lowBits (.stc c p u n w rn crd cp off)) + 1,
      s.access .word .write s.privileged (wordFrom (s.cpAddr p u rn off) j) = none) :
    exec (.stc c p u n w rn crd cp off) s =
      (let instr := lowBits (.stc c p u n w rn crd cp off)
       .next ((({ s with hazard := false } : State).putWords (s.cpAddr p u rn off) (Config.cpStcWord cp k instr)
         (Config.cpStcMore cp k instr + 1)).cpMoved p w rn (s.cpIndex u rn off) cp
           (Config.cpStcState cp k instr))) := by
  rw [exec_stc_responds h, cpChecked_admitted ha.base ha.aligned]
  dsimp only
  rw [State.storeAll_words (s := { s with hazard := false }) hacc, Option.elim_none]

theorem exec_stc_stopped (h : s.CpReady (.stc c p u n w rn crd cp off) c rn cp k) (ha : s.CpAdmitted p u w rn off)
    {j : Nat} (hj : j < Config.cpStcMore cp k (lowBits (.stc c p u n w rn crd cp off)) + 1)
    (hbefore : ∀ m < j, s.access .word .write s.privileged (wordFrom (s.cpAddr p u rn off) m) = none)
    (he : s.access .word .write s.privileged (wordFrom (s.cpAddr p u rn off) j) = some e) :
    exec (.stc c p u n w rn crd cp off) s =
      stopWith (({ s with hazard := false } : State).putWords (s.cpAddr p u rn off)
        (Config.cpStcWord cp k (lowBits (.stc c p u n w rn crd cp off))) j) e := by
  rw [exec_stc_responds h, cpChecked_admitted ha.base ha.aligned]
  dsimp only
  rw [State.storeAll_words_stopped (s := { s with hazard := false }) hj hbefore he, Option.elim_some]

end

end

end Sys2Proof.Machine

open Sys2Proof Sys2Proof.Machine in
/-- Settles O51: four of the five look for the coprocessor once the condition passes, MCR once its Rd is not R15. -/
theorem absentCoprocessorTraps : Obligations.AbsentCoprocessorTraps := by
  intro s c i cp hc hi habsent
  rcases hi with ⟨op, crn, crd, q, crm, rfl⟩ | ⟨op, crn, rd, q, crm, rfl⟩ | ⟨op, crn, rd, q, crm, hrd, rfl⟩ |
    ⟨p, u, n, w, rn, crd, off, rfl⟩ | ⟨p, u, n, w, rn, crd, off, rfl⟩
  case inr.inr.inl => exact exec_mcr_absent hc hrd habsent
  all_goals exact conditional_withCoproc_absent hc habsent _

open Sys2Proof Sys2Proof.Machine in
/-- Settles O52: each answers the state of its own rule, written out. -/
theorem coprocessorOperations : Obligations.CoprocessorOperations := by
  intro s c cp k q crn crm hk
  refine ⟨?cdp, ?mcr, ?mrc⟩
  case cdp =>
    intro op crd i instr hc hr
    exact exec_cdp_responds hc hk hr
  case mcr =>
    intro op rd i instr
    exact ⟨exec_mcr_fifteen, fun hs hrd hr => exec_mcr_responds hs hrd hk hr⟩
  case mrc =>
    intro op rd i instr v hs hr
    obtain ⟨hcps, hpc, hhazard, hcfg, hspsrs, hinputs, hbytes⟩ :=
      s.cpRead_frame cp (Config.cpMrcState cp k instr) rd v
    refine ⟨_, exec_mrc_responds hs hk hr, hcps, hpc, hhazard, hcfg, hspsrs, hinputs, hbytes,
      s.cpRead_of_ne cp _ v, ?_⟩
    rintro rfl
    exact ⟨rfl, rfl⟩

open Sys2Proof Sys2Proof.Machine in
/-- Settles O53: all words are read, then the base and the coprocessor are written. -/
theorem coprocessorLoad : Obligations.CoprocessorLoad := by
  intro c p u n w rn crd cp off k s i instr hs hk hr idx addr count word
  have h : s.CpReady i c rn cp k := ⟨hs, hk, hr⟩
  refine ⟨fun hrn hw => (exec_ldc_responds h).trans (cpChecked_fifteen hrn hw _),
    fun hbase ha => (exec_ldc_responds h).trans (cpChecked_unaligned hbase ha _), fun hbase ha hacc => ?loaded,
    fun hbase ha j hj hbefore x hx => ?stopped⟩
  case loaded =>
    obtain ⟨hcps, hregs, hpsr, hpc, hhazard, hcfg, hspsrs, hinputs, hmem, hstored⟩ :=
      ({ s with hazard := false } : State).cpMoved_frame p w rn idx cp
        (Config.cpLdc cp k instr ((List.range count).map fun j => s.wordAt (word j)))
    exact ⟨_, exec_ldc_result h ⟨hbase, ha⟩ hacc, hcps,
      fun hw => State.reg_cpMoved _ idx cp _ hw (ne_fifteen_of_writesBack hbase hw), hregs, hpsr,
      hpc, hhazard, hcfg, hspsrs, hinputs, sameBytes_of_mem hmem hstored⟩
  case stopped => exact exec_ldc_stopped h ⟨hbase, ha⟩ hj hbefore ((State.access_eq_some (by decide)).2 hx)

open Sys2Proof Sys2Proof.Machine in
/-- Settles O54: the words are stored in order, so that the last one stored at an address is the one that stays; the
first that is stopped leaves those before it. -/
theorem coprocessorStore : Obligations.CoprocessorStore := by
  intro c p u n w rn crd cp off k s i instr hs hk hr hm idx addr count word
  have h : s.CpReady i c rn cp k := ⟨hs, hk, hr⟩
  let s₀ : State := { s with hazard := false }
  have hwf : Memory.wf s₀.mem = true := hm
  refine ⟨fun hrn hw => (exec_stc_responds h).trans (cpChecked_fifteen hrn hw _),
    fun hbase ha => (exec_stc_responds h).trans (cpChecked_unaligned hbase ha _), fun hbase ha hacc => ?stored,
    fun hbase ha j hj hbefore x hx => ?stopped⟩
  case stored =>
    let t := s₀.putWords addr (Config.cpStcWord cp k instr) count
    have hbyte := t.byte_cpMoved p w rn idx cp (Config.cpStcState cp k instr)
    obtain ⟨hcps, hregs, hpsr, hpc, hhazard, hcfg, hspsrs, hinputs⟩ :=
      State.cpMoved_frame_of_onlyMemory (s₀.onlyMemory_putWords addr (Config.cpStcWord cp k instr) count) p w rn idx cp
        (Config.cpStcState cp k instr)
    exact ⟨_, exec_stc_result h ⟨hbase, ha⟩ hacc,
      fun j hj hn => (State.wordAt_congr _ fun b _ _ => hbyte b).trans (State.wordAt_putWords hwf ha hj hn),
      fun b hb => (hbyte b).trans (State.byte_putWords hwf hb), hcps,
      fun hw => t.reg_cpMoved idx cp _ hw (ne_fifteen_of_writesBack hbase hw), hregs, hpsr, hpc,
      hhazard, hcfg, hspsrs, hinputs⟩
  case stopped =>
    have he := (State.access_eq_some (by decide)).2 hx
    have hround := first_stopped_lt hbefore he
    exact ⟨_, exec_stc_stopped h ⟨hbase, ha⟩ hj hbefore he, s₀.onlyMemory_putWords ..,
      fun m hm => State.wordAt_putWords hwf ha hm (by omega), fun b hb => State.byte_putWords hwf hb⟩
end

section
/-!
PROOF. The hazard of 70_reset R412 and R413: what starts it, what it refuses, and what ends it.
-/

namespace Sys2Proof.Machine

section
variable {i : Instr} {s t : State}

/-! ## What starts the hazard -/

/-- The hazard is on after a P form that changed the mode, or a user bank transfer, in a privileged mode. -/
theorem exec_startsHazard (h : exec i s = .next t) (ht : t.hazard = true) : s.privileged = true ∧
    ((∃ k c rn o, i = testPInstr k c rn o ∧ t.psr.mode ≠ s.psr.mode) ∨
      (∃ l p u c rn list, i = blockInstr l p u c true false rn list ∧ (l = false ∨ list.getLsbD 15 = false))) := by
  rcases exec_tame_or i with htame | ⟨k, c, rn, o, rfl⟩ | ⟨l, p, u, c, sb, w, rn, list, rfl⟩
  · exact absurd ((htame s t h).1.symm.trans ht) Bool.false_ne_true
  · obtain ⟨hp, hmode⟩ := (exec_testPInstr_effect k c rn o s t h).2 ht
    exact ⟨hp, .inl ⟨k, c, rn, o, rfl, hmode⟩⟩
  · obtain ⟨hp, rfl, rfl, hbank⟩ := (exec_blockInstr_effect l p u c sb w rn list s t h).2 ht
    exact ⟨hp, .inr ⟨l, p, u, c, rn, list, rfl, hbank⟩⟩

/-! ## What the hazard refuses -/

/-- A coprocessor instruction whose coprocessor responds is refused as any other (70_reset R412). -/
theorem withCoproc_hazard {cp : BitVec 4} {k : Coproc} {rs : List Reg} (hz : s.hazard = true)
    (hb : anyBanked rs = true) (hk : s.coproc cp = some k) (hr : k.responds (lowBits i) = true)
    (body : Coproc → State → Answer) :
    withCoproc i cp rs s body = .refused .bankedRegisterAfterModeChange :=
  (withCoproc_responds hk hr body).trans (if_pos (by rw [hz, hb]; rfl))

theorem conditional_withCoproc_hazard {c : Cond} {cp : BitVec 4} {k : Coproc} {rs : List Reg} (hz : s.hazard = true)
    (hc : condPassed c s.psr = true) (hb : anyBanked rs = true) (hk : s.coproc cp = some k)
    (hr : k.responds (lowBits i) = true) (body : Coproc → State → Answer) :
    conditional c s (fun s => withCoproc i cp rs s body) = .refused .bankedRegisterAfterModeChange :=
  (conditional_passed hc _).trans (withCoproc_hazard hz hb hk hr body)

/-- R15 is not one of R8 to R14. -/
theorem ne_fifteen_of_anyBanked {r : Reg} (h : anyBanked [r] = true) : r ≠ 15#4 := by
  rintro rfl
  exact absurd h (by decide)

end

end Sys2Proof.Machine

open Sys2Proof Sys2Proof.Machine in
/-- Settles O58: two families alone start the hazard; every instruction's rule asks for it with the registers named;
exception entry clears it. -/
theorem hazardLastsOneInstruction : Obligations.HazardLastsOneInstruction := by
  refine ⟨fun _ _ _ => exec_startsHazard, fun i c named s hz hc hb hi => ?refused, fun _ _ _ => takeException_hazard⟩
  have refused : ∀ body, instruction c named s body = .refused .bankedRegisterAfterModeChange :=
    instruction_hazard hz hc hb
  rcases hi with ⟨op, sb, rn, rd, o, rfl, rfl⟩ | ⟨k, rn, rd, o, rfl | rfl, rfl⟩ |
    ⟨sb, rd, rn, rs, rm, ⟨rfl, rfl⟩ | ⟨rfl, rfl⟩⟩ | ⟨sb, rh, rl, rs, rm, hi, rfl⟩ |
    ⟨l, z, p, u, w, rn, rd, o, rfl, rfl⟩ | ⟨l, p, u, sb, w, rn, list, rfl, rfl⟩ | ⟨rn, rd, rm, hi, rfl⟩ |
    ⟨off, rfl, rfl⟩ | ⟨spsr, a, r, hi, rfl⟩ | ⟨cp, k, hk, hr, hi⟩
  · rw [exec_dpInstr]; exact refused _
  · rw [exec_testInstr]; exact refused _
  · rw [exec_testPInstr]; exact refused _
  · exact refused _
  · exact refused _
  · obtain ⟨signed, accumulate, he⟩ := exec_eq_longMultiply (s := s) hi
    rw [he]; exact refused _
  · rw [exec_transferInstr]; exact refused _
  · rw [exec_blockInstr]
    cases l with
    | true => exact refused _
    | false => exact refused _
  · rcases List.mem_pair.1 hi with rfl | rfl <;> exact refused _
  · exact refused _
  · rcases List.mem_pair.1 hi with rfl | rfl <;> exact refused _
  · rcases hi with ⟨op, crn, rd, q, crm, hi, rfl⟩ | ⟨p, u, n, w, rn, crd, off, hi, rfl⟩
    · rcases List.mem_pair.1 hi with rfl | rfl
      · exact conditional_withCoproc_hazard hz hc hb hk hr _
      · exact (if_pos hc).trans <| (if_neg (ne_fifteen_of_anyBanked hb)).trans (withCoproc_hazard hz hb hk hr _)
    · rcases List.mem_pair.1 hi with rfl | rfl <;> exact conditional_withCoproc_hazard hz hc hb hk hr _
end

section
/-!
PROOF. Sample words of the families (30_encoding, 95_test_vectors).
-/

/-- Settles O3: each word is decoded line by line to the instruction named. -/
theorem sampleWordsDecode : Obligations.SampleWordsDecode := by
  unfold Obligations.SampleWordsDecode
  decide
end
